-- ==== Sys2Proof/Word.lean ====
section
/-! DEFINITION. The word types of the model (spec/00_scope.md R4, R5; spec/30_encoding.md R72). -/

namespace Sys2Proof

/-- The contents of a System register, a general-purpose register, the pc or an `NVMem` slot: 64 bits (R4, R6). -/
abbrev Word := BitVec 64

/-- The unit of memory. -/
abbrev Byte := BitVec 8

/-- One A64 instruction word (R72). -/
abbrev OpWord := BitVec 32

end Sys2Proof
end

