-- ==== Sys2Proof/Syntax.lean ====
section
/-! DEFINITION. The instructions (spec/30_encoding.md R74, opcode_table.json) and the reasons a decoder has to reject
a word. -/

namespace Sys2Proof

/-- The direction of an access: the `L` bit of R72, `read` for `MRS`, `write` for `MSR`. -/
inductive Dir where
  | read | write
  deriving DecidableEq, Repr

/-- The eight rows of the opcode table (R74). The operand `t` is the number in the field `Rt` (R73); `WellFormed.lean`
checks its range. -/
inductive Instr where
  /-- `MRS <Xt>, ICH_AP0R0_EL2` (R91) -/
  | mrsAp0r0 (t : Nat)
  /-- `MRS <Xt>, ICH_AP0R1_EL2` (R92) -/
  | mrsAp0r1 (t : Nat)
  /-- `MRS <Xt>, ICH_AP0R2_EL2` (R93) -/
  | mrsAp0r2 (t : Nat)
  /-- `MRS <Xt>, ICH_AP0R3_EL2` (R94) -/
  | mrsAp0r3 (t : Nat)
  /-- `MSR ICH_AP0R0_EL2, <Xt>` (R104) -/
  | msrAp0r0 (t : Nat)
  /-- `MSR ICH_AP0R1_EL2, <Xt>` (R105) -/
  | msrAp0r1 (t : Nat)
  /-- `MSR ICH_AP0R2_EL2, <Xt>` (R106) -/
  | msrAp0r2 (t : Nat)
  /-- `MSR ICH_AP0R3_EL2, <Xt>` (R107) -/
  | msrAp0r3 (t : Nat)
  deriving DecidableEq, Repr

/-- The direction an instruction moves data in. -/
def Instr.dir : Instr → Dir
  | .mrsAp0r0 _ | .mrsAp0r1 _ | .mrsAp0r2 _ | .mrsAp0r3 _ => .read
  | .msrAp0r0 _ | .msrAp0r1 _ | .msrAp0r2 _ | .msrAp0r3 _ => .write

/-- The register index `m` an instruction names. -/
def Instr.reg : Instr → Fin 4
  | .mrsAp0r0 _ | .msrAp0r0 _ => 0
  | .mrsAp0r1 _ | .msrAp0r1 _ => 1
  | .mrsAp0r2 _ | .msrAp0r2 _ => 2
  | .mrsAp0r3 _ | .msrAp0r3 _ => 3

/-- The operand `t`. -/
def Instr.rt : Instr → Nat
  | .mrsAp0r0 t | .mrsAp0r1 t | .mrsAp0r2 t | .mrsAp0r3 t => t
  | .msrAp0r0 t | .msrAp0r1 t | .msrAp0r2 t | .msrAp0r3 t => t

/-- The instruction of a direction, a register index and an operand. -/
def Instr.accessor : Dir → Fin 4 → Nat → Instr
  | .read, 0, t => .mrsAp0r0 t
  | .read, 1, t => .mrsAp0r1 t
  | .read, 2, t => .mrsAp0r2 t
  | .read, 3, t => .mrsAp0r3 t
  | .write, 0, t => .msrAp0r0 t
  | .write, 1, t => .msrAp0r1 t
  | .write, 2, t => .msrAp0r2 t
  | .write, 3, t => .msrAp0r3 t

/-- Why a decoder rejects its input. -/
inductive DecodeError where
  /-- fewer than four bytes are left (R72: a decoder always consumes four) -/
  | truncated
  /-- the word is not of the System register move format of R72 -/
  | notSystemMove
  /-- a System register move whose op0, op1, CRn, CRm are not those of R70 -/
  | otherRegister
  /-- the tuple of R70 with `op2[2] = 1`: not described by the source, must not be accepted (R75) -/
  | reservedOp2
  deriving DecidableEq, Repr

/-- What a decoder answers. -/
inductive Decoded where
  | instr (i : Instr)
  | reject (e : DecodeError)
  deriving DecidableEq, Repr

end Sys2Proof
end

