-- ==== Sys2Proof/WellFormed.lean ====
section
/-! DEFINITION. Which terms of `Instr` stand for an instruction (spec/30_encoding.md R73). -/

namespace Sys2Proof

/-- `Rt` is a 5-bit field: "`t`, 0 to 31. All 32 values are legal" (R73). -/
def Instr.rtInRange (i : Instr) : Bool := decide (i.rt < 32)

/-- Every check on an instruction: R73's is the only one the spec has (R71: there are no immediates). -/
def Instr.wellFormed (i : Instr) : Bool := i.rtInRange

end Sys2Proof
end

