-- ==== Sys2Proof/Decode.lean ====
section
/-! DEFINITION. Decoding and encoding, from the field layout of spec/30_encoding.md R70 to R75. -/

namespace Sys2Proof

/-- Bits [31:22] of a System register move (R72). -/
def fixedTop : BitVec 10 := 0b1101010100#10

/-- `op0` of the family (R70). -/
def op0Code : BitVec 2 := 0b11#2

/-- `op1` of the family (R70). -/
def op1Code : BitVec 3 := 0b100#3

/-- `CRn` of the family (R70). -/
def crnCode : BitVec 4 := 0b1100#4

/-- `CRm` of the family (R70). -/
def crmCode : BitVec 4 := 0b1000#4

/-- The `L` bit of a direction: 1 for `MRS`, 0 for `MSR` (R72). -/
def dirBit : Dir → BitVec 1
  | .read => 1#1
  | .write => 0#1

/-- `op2 = 0b0:m[1:0]` (R70, R71). -/
def op2Code (m : Fin 4) : BitVec 3 := BitVec.ofNat 3 m.val

/-- The bits `[lo+n-1:lo]` of a word. -/
def bitField (w : OpWord) (lo n : Nat) : BitVec n := w.extractLsb' lo n

/-- `m = UInt(op2<1:0>)` (R71). -/
def regIndex (w : OpWord) : Fin 4 := (bitField w 5 2).toFin

/-- The direction a word's `L` bit gives (R72). -/
def dirOf (w : OpWord) : Dir := if bitField w 21 1 = 1#1 then .read else .write

/-- The instruction of a word, or the reason it is none of this spec's (R70 to R75; PRESUMED, log entry 21).
Total on all 32-bit words. -/
def decode (w : OpWord) : Decoded :=
  if bitField w 22 10 ≠ fixedTop ∨ bitField w 20 1 ≠ 1#1 then .reject .notSystemMove
  else if bitField w 19 2 ≠ op0Code ∨ bitField w 16 3 ≠ op1Code ∨ bitField w 12 4 ≠ crnCode ∨ bitField w 8 4 ≠ crmCode then
    .reject .otherRegister
  else if bitField w 7 1 ≠ 0#1 then .reject .reservedOp2
  else .instr (Instr.accessor (dirOf w) (regIndex w) (bitField w 0 5).toNat)

/-- A word from its four bytes, least significant first: instructions are fetched little-endian (R72). -/
def wordOfBytes (b0 b1 b2 b3 : Byte) : OpWord := b3 ++ b2 ++ b1 ++ b0

/-- The four bytes of a word in the order memory holds them (R72). -/
def bytesOfWord (w : OpWord) : List Byte :=
  [w.extractLsb' 0 8, w.extractLsb' 8 8, w.extractLsb' 16 8, w.extractLsb' 24 8]

/-- Decoding from a list of bytes, answering the bytes that are left. -/
def decodeBytes : List Byte → Decoded × List Byte
  | b0 :: b1 :: b2 :: b3 :: rest => (decode (wordOfBytes b0 b1 b2 b3), rest)
  | bs => (.reject .truncated, bs)

/-- The instruction word from the fields of R72, most significant first. -/
def encodeFields (d : Dir) (m : Fin 4) (t : Nat) : OpWord :=
  fixedTop ++ dirBit d ++ op0Code ++ op1Code ++ crnCode ++ crmCode ++ op2Code m ++ BitVec.ofNat 5 t

/-- The word of a well-formed instruction. -/
def encode (i : Instr) : OpWord := encodeFields i.dir i.reg i.rt

/-- The mask of every row of R74. -/
def rowMask : OpWord := 0xFFFFFFE0#32

/-- The `match` column of R74, row by row. -/
def rowMatch : Instr → OpWord
  | .mrsAp0r0 _ => 0xD53CC800#32
  | .mrsAp0r1 _ => 0xD53CC820#32
  | .mrsAp0r2 _ => 0xD53CC840#32
  | .mrsAp0r3 _ => 0xD53CC860#32
  | .msrAp0r0 _ => 0xD51CC800#32
  | .msrAp0r1 _ => 0xD51CC820#32
  | .msrAp0r2 _ => 0xD51CC840#32
  | .msrAp0r3 _ => 0xD51CC860#32

/-- The instruction read from a word numbered as the opcode table numbers it: the word is laid out in memory's byte order
and given to `decodeBytes`. Bits above `nbits` are 0. -/
def decodeTableWord (nbits w : Nat) : Option Instr :=
  match (decodeBytes (bytesOfWord (BitVec.ofNat 32 (w % 2 ^ nbits)))).1 with
  | .instr i => some i
  | .reject _ => none

end Sys2Proof
end

