-- ==== Sys2Proof/Config.lean ====
section
/-! DEFINITION. The implementation parameters the spec leaves open (spec/00_scope.md R4, U13 to U15): plain data, carried
by every state and changed by no step, so that a claim about every state is a claim about every implementation. -/

namespace Sys2Proof

/-- `NUM_GIC_PREEMPTION_BITS`, in the domain {5, 6, 7} of R4 and D2; another value cannot be written down
(UNVERIFIED, log entry 26). -/
inductive Pre where
  | five | six | seven
  deriving DecidableEq, Repr

/-- `PRE` as a number. -/
def Pre.bits : Pre → Nat
  | .five => 5
  | .six => 6
  | .seven => 7

/-- What `ICH_VTR_EL2.PREbits` would hold: `PRE - 1` (R34, from general knowledge: PRESUMED, log entry 14). That the field
is 3 bits wide is PRESUMED too, from the GICv3 family: the spec gives no width (log entry 14). -/
def Pre.preBits (p : Pre) : BitVec 3 := BitVec.ofNat 3 (p.bits - 1)

/-- The parameters of one implementation. -/
structure Config where
  /-- `PRE` (R4). -/
  pre : Pre
  /-- "FEAT_GICv3 is implemented" (R2, R4). -/
  haveGICv3 : Bool
  /-- "EL2 is implemented" (R2, R4). -/
  haveEL2 : Bool
  /-- "EL3 is implemented" (R2, R4). -/
  haveEL3 : Bool
  /-- `NVMemCanFault`: whether the outcome `NVMemFault` exists at all (R53, D8). -/
  nvMemCanFault : Bool
  /-- `NVMemBigEndian`: the byte order of the `NVMem` window laid over bytes (R54, D9). -/
  nvMemBigEndian : Bool
  /-- Whether the machine is composed with an AArch64 base PE whose exception entry receives a raised outcome (R116);
  without it a step that raises is terminal (R116, D13). Log entry 3. -/
  composed : Bool
  deriving DecidableEq, Repr

/-- `Present = HaveGICv3 and (HaveEL2 or HaveEL3)` (R2). -/
def Config.present (c : Config) : Bool := c.haveGICv3 && (c.haveEL2 || c.haveEL3)

/-- `Implemented(m)` (R3). -/
def Config.implemented (c : Config) (m : Fin 4) : Bool :=
  m == 0 || (m == 1 && decide (6 ≤ c.pre.bits)) || ((m == 2 || m == 3) && decide (7 ≤ c.pre.bits))

end Sys2Proof
end

