-- ==== Sys2Proof/Machine/State.lean ====
section
/-! DEFINITION. Everything the spec gives the machine (spec/10_state.md; spec/60_exceptions.md R116, R122 to R124), the
reasons a step can stop, and the state after reset. -/

namespace Sys2Proof.Machine

/-- The Exception levels (R33). -/
inductive EL where
  | el0 | el1 | el2 | el3
  deriving DecidableEq, Repr

/-- The levels an exception can be taken to, which are those that have a vector base and saved registers (R116). -/
inductive ELx where
  | el1 | el2 | el3
  deriving DecidableEq, Repr

/-- A target level as an Exception level. -/
def ELx.toEL : ELx → EL
  | .el1 => .el1
  | .el2 => .el2
  | .el3 => .el3

/-- The order of privilege, for "lower level" in R116. -/
def EL.rank : EL → Nat
  | .el0 => 0
  | .el1 => 1
  | .el2 => 2
  | .el3 => 3

/-- Memory: the bytes listed, in rising order of address; an unlisted address reads as `memDefault` (Machine/Ops.lean). -/
abbrev Memory := List Host.Cell

/-- The `PSTATE` fields the spec names: `EL` (R33), the flags `N Z C V` (R36), and `D A I F`, `SS`, `IL`, `SP` (R116;
DESIGN CHOICE, log entry 24: by name, since the spec gives them no places in a word). -/
structure PState where
  el : EL
  n : Bool
  z : Bool
  c : Bool
  v : Bool
  d : Bool
  a : Bool
  i : Bool
  f : Bool
  ss : Bool
  il : Bool
  sp : Bool
  deriving DecidableEq, Repr

/-- The registers of one level that exception entry reads and writes (R116). -/
structure ExcBank where
  /-- `SPSR_ELx` -/
  spsr : PState
  /-- `ELR_ELx` -/
  elr : Word
  /-- `ESR_ELx`, the 32 bits R114 lays out -/
  esr : BitVec 32
  /-- `VBAR_ELx`, any 64-bit value (DESIGN CHOICE, log entry 27) -/
  vbar : Word
  deriving DecidableEq, Repr

/-- The sticky marks of R37: state of the model, not of the chip. -/
structure Marks where
  unpredValue : Bool
  unpredOrder : Bool
  unpredOverlap : Bool
  unpredLegacy : Bool
  refusedRes0 : Bool
  deriving DecidableEq, Repr

/-- No mark set: the value at launch (R37). -/
def Marks.none : Marks := ⟨false, false, false, false, false⟩

/-- The values a reset leaves open: each is a premise of the launch (R40, R141, D22, U19), so a reset event carries them. -/
structure Launch where
  x : Vector Word 31
  pc : Word
  pstate : PState
  el2Enabled : Bool
  nv : Bool
  nv2 : Bool
  tge : Bool
  sreEL2 : Bool
  sreEL3 : Bool
  bank1 : ExcBank
  bank2 : ExcBank
  bank3 : ExcBank
  ap1r : Vector Word 4
  /-- the four `NVMem` slots, by register index -/
  slots : Vector Word 4
  legacyVM : Bool
  vcpuifEnabled : Bool
  nvMemFaulting : Bool
  deriving DecidableEq, Repr

/-- What acts on the machine beside the accessors: the virtual CPU interface (R122, R123), the events of the spec
(R39, R140), and the surrounding processor, which the spec takes as inputs (R33, R117, D22). -/
inductive Event where
  /-- `Activate0(p)`: a Group 0 virtual interrupt of priority `p` becomes active (R122) -/
  | activate0 (p : Byte)
  /-- `Drop0(n, x)`: every active Group 0 interrupt of that level has undergone priority drop (R123) -/
  | drop0 (n : Fin 4) (x : Fin 32)
  /-- `WarmReset` (R140) -/
  | warmReset (l : Launch)
  /-- a Cold reset, treated as a `WarmReset` (R140, D22) -/
  | coldReset (l : Launch)
  /-- `NewRestoreSequence` (R39, D18) -/
  | newRestoreSequence
  /-- a direct write of `ICH_AP1R<n>_EL2` (R39) -/
  | ap1rWrite (n : Fin 4) (v : Word)
  /-- another change of `ICH_AP1R<n>_EL2` the model is told of, such as through `GICV_APR` (R31, D19) -/
  | ap1rChange (n : Fin 4) (v : Word)
  /-- whether a legacy virtual machine is the one running (R31, D20) -/
  | setLegacyVM (b : Bool)
  /-- `EL2Enabled()` (R33) -/
  | setEL2Enabled (b : Bool)
  /-- `PSTATE.EL` as an input (R33; 95_test_vectors.md P7) -/
  | setEL (l : EL)
  /-- `HCR_EL2.NV` (R33) -/
  | setNV (b : Bool)
  /-- `HCR_EL2.NV2` (R33) -/
  | setNV2 (b : Bool)
  /-- `HCR_EL2.TGE` (R110) -/
  | setTGE (b : Bool)
  /-- `ICC_SRE_EL2.SRE` (R33) -/
  | setSreEL2 (b : Bool)
  /-- `ICC_SRE_EL3.SRE` (R33) -/
  | setSreEL3 (b : Bool)
  /-- the open guard `VcpuifEnabled` (R124) -/
  | setVcpuifEnabled (b : Bool)
  /-- whether the redirected accesses to come fault (R53) -/
  | setNvMemFaulting (b : Bool)
  /-- another agent writes slot `m` of the `NVMem` window (R59, R118) -/
  | nvMemStore (m : Fin 4) (v : Word)
  /-- other software writes `X<t>` (R32) -/
  | setX (t : Fin 31) (v : Word)
  /-- other software moves the pc -/
  | setPc (v : Word)
  /-- other software writes `PSTATE` (R116) -/
  | setPState (p : PState)
  /-- other software writes `VBAR_ELx` (R116) -/
  | setVbar (l : ELx) (v : Word)
  /-- other software writes `ELR_ELx`, such as a handler that adds 4 (R117) -/
  | setElr (l : ELx) (v : Word)
  /-- other software writes `SPSR_ELx` (R117) -/
  | setSpsr (l : ELx) (p : PState)
  /-- `ERET` (R117) -/
  | eret
  deriving DecidableEq, Repr

/-- Whose move is next: the PE's, or an event's. -/
inductive Turn where
  | pe
  | env (e : Event)
  deriving DecidableEq, Repr

/-- The state. -/
structure State where
  /-- the implementation's parameters (R4) -/
  cfg : Config
  /-- `AP0R[0..3]`, that is `ICH_AP0R<m>_EL2` (R20) -/
  ap0r : Vector Word 4
  /-- `X0` to `X30` (R32) -/
  x : Vector Word 31
  /-- the program counter (R36) -/
  pc : Word
  /-- `PSTATE`, whose field `el` is `PSTATE.EL` (R33, R36, R116) -/
  pstate : PState
  /-- `EL2Enabled()` (R33) -/
  el2Enabled : Bool
  /-- `HCR_EL2.NV` (R33) -/
  nv : Bool
  /-- `HCR_EL2.NV2` (R33) -/
  nv2 : Bool
  /-- `HCR_EL2.TGE` (R110) -/
  tge : Bool
  /-- `ICC_SRE_EL2.SRE` (R33) -/
  sreEL2 : Bool
  /-- `ICC_SRE_EL3.SRE` (R33) -/
  sreEL3 : Bool
  /-- `SPSR_EL1`, `ELR_EL1`, `ESR_EL1`, `VBAR_EL1` (R116) -/
  bank1 : ExcBank
  /-- the same of EL2 (R116) -/
  bank2 : ExcBank
  /-- the same of EL3 (R116) -/
  bank3 : ExcBank
  /-- `AP1R[0..3]`, that is `ICH_AP1R<n>_EL2` (R35) -/
  ap1r : Vector Word 4
  /-- `LegacyVM` (R31, D20) -/
  legacyVM : Bool
  /-- `VcpuifEnabled` (R124, D21) -/
  vcpuifEnabled : Bool
  /-- whether a redirected access made now faults, where `NVMemCanFault` allows one (R53) -/
  nvMemFaulting : Bool
  /-- the `NVMem` window, byte by byte, keyed by the byte's offset in the window (R50, R52, R54) -/
  nvmem : Memory
  /-- the program text, keyed by address (R61, R72) -/
  text : Memory
  /-- the sticky marks (R37) -/
  marks : Marks
  /-- `last_read[0..3]` (R38) -/
  lastRead : Vector (Option Word) 4
  /-- `ap1r_written` (R39) -/
  ap1rWritten : Bool
  /-- the model's own field: whose turns come next; once it is empty, every turn is the PE's (log entry 4) -/
  turns : List Turn
  deriving DecidableEq, Repr

/-- Why the machine stops with an exception (R6, R110 to R112). A raised outcome carries what a composed machine's exception
entry receives: kind, target, number, return address (R116). All are safe: no next state is claimed. -/
inductive Fault where
  /-- `Undefined` (R110), raised by every accessor (X1 to X5 of R112) -/
  | undefined (returnAddress : Word)
  /-- `SysTrap(target, code)` (R111), raised by every accessor (X6 to X8); `esr` is the syndrome of R114 (D15) -/
  | sysTrap (target : ELx) (code : BitVec 6) (returnAddress : Word) (esr : BitVec 32)
  /-- `NVMemFault` (R53), raised by a redirected access (X9) -/
  | nvMemFault (returnAddress : Word)
  /-- the pc is not a multiple of 4: raised by the fetch; outside the spec (R55) -/
  | pcAlignment (pc : Word)
  deriving DecidableEq, Repr

/-- Why the model gives no next state (all safe: nothing is claimed of such a run). -/
inductive Refusal where
  /-- an instruction whose meaning is still to be written: answered by `exec`'s arms only -/
  | notModelled (mnemonic : String)
  /-- the word at the pc is no instruction of this spec (R75, U12): answered by the fetch -/
  | notOfThisSpec (why : DecodeError) (word : OpWord)
  /-- `Activate0` or `Drop0` outside the guard of R124: no such step exists -/
  | vcpuifNotEnabled
  /-- `Drop0` of a register that is not implemented or of a bit that is 0 (R123) -/
  | dropNotEnabled
  /-- an event whose result breaks the consistency of the control inputs (R33) -/
  | inconsistentInput
  /-- an `ERET` at EL0 or to a level above the current one, of which the spec says nothing (R117) -/
  | illegalReturn
  deriving DecidableEq, Repr

/-- The parameters of the machine after reset: every feature present, seven bits of preemption (log entry 2). -/
def resetConfig : Config where
  pre := .seven
  haveGICv3 := true
  haveEL2 := true
  haveEL3 := true
  nvMemCanFault := false
  nvMemBigEndian := false
  composed := false

/-- `PSTATE` after reset: EL3, interrupts masked (R141; PRESUMED, log entry 6). -/
def resetPState : PState where
  el := .el3
  n := false
  z := false
  c := false
  v := false
  d := true
  a := true
  i := true
  f := true
  ss := false
  il := false
  sp := true

/-- A saved `PSTATE` that nothing has written (DESIGN CHOICE, log entry 6). -/
def zeroPState : PState where
  el := .el0
  n := false
  z := false
  c := false
  v := false
  d := false
  a := false
  i := false
  f := false
  ss := false
  il := false
  sp := false

/-- The exception registers of a level that nothing has written (DESIGN CHOICE, log entry 6). -/
def resetBank : ExcBank where
  spsr := zeroPState
  elr := 0
  esr := 0
  vbar := 0

/-- The machine right after reset: what R40 and R140 state for the registers, the marks and the ghost state; the launch
values of 95_test_vectors.md for the inputs; and the values of log entries 2, 5 and 6 for what the spec leaves open. -/
def State.reset : State where
  cfg := resetConfig
  ap0r := #v[0, 0, 0, 0]
  x := Vector.replicate 31 0
  pc := 0x1000
  pstate := resetPState
  el2Enabled := true
  nv := false
  nv2 := false
  tge := false
  sreEL2 := true
  sreEL3 := true
  bank1 := resetBank
  bank2 := resetBank
  bank3 := resetBank
  ap1r := #v[0, 0, 0, 0]
  legacyVM := false
  vcpuifEnabled := true
  nvMemFaulting := false
  nvmem := []
  text := []
  marks := Marks.none
  lastRead := #v[none, none, none, none]
  ap1rWritten := false
  turns := []

def State.setAp0r (s : State) (v : Vector Word 4) : State := { s with ap0r := v }
def State.setXs (s : State) (v : Vector Word 31) : State := { s with x := v }
def State.setPc (s : State) (v : Word) : State := { s with pc := v }
def State.setPState (s : State) (v : PState) : State := { s with pstate := v }
def State.setAp1r (s : State) (v : Vector Word 4) : State := { s with ap1r := v }
def State.setNvmem (s : State) (v : Memory) : State := { s with nvmem := v }
def State.setMarks (s : State) (v : Marks) : State := { s with marks := v }
def State.setLastReads (s : State) (v : Vector (Option Word) 4) : State := { s with lastRead := v }
def State.setTurns (s : State) (v : List Turn) : State := { s with turns := v }

end Sys2Proof.Machine
end

