-- ==== Sys2Proof/Machine/Ops.lean ====
section
/-! DEFINITION. The named operations over memory and registers, and taking and returning from an exception. -/

namespace Sys2Proof.Machine

/-! ### Memory -/

/-- What a byte of memory that nothing has written reads as (DESIGN CHOICE, log entry 7: the spec states no contents). -/
def memDefault : Byte := 0#8

/-- One byte of memory. -/
def memGet : Memory → Nat → Byte
  | [], _ => memDefault
  | c :: rest, a => if c.1 = a then c.2 else memGet rest a

/-- A byte in front of a memory, left out where it equals what an unlisted address reads as. -/
def memCons (a : Nat) (b : Byte) (m : Memory) : Memory := if b = memDefault then m else (a, b) :: m

/-- Writing one byte, keeping the addresses in rising order. -/
def memSet (a : Nat) (b : Byte) : Memory → Memory
  | [] => memCons a b []
  | c :: rest =>
    if a < c.1 then memCons a b (c :: rest)
    else if a = c.1 then memCons a b rest
    else c :: memSet a b rest

/-- The canonical form: addresses strictly rising, and no byte equal to what an unlisted address reads as. -/
abbrev Memory.wf (m : Memory) : Prop :=
  m.Pairwise (fun c d => c.1 < d.1) ∧ ∀ c ∈ m, c.2 ≠ memDefault

/-- Writing a list of bytes at consecutive addresses. -/
def memStore (a : Nat) : List Byte → Memory → Memory
  | [], m => m
  | b :: bs, m => memStore (a + 1) bs (memSet a b m)

/-- Byte `k` of a 64-bit value, byte 0 the least significant. -/
def byteOf (v : Word) (k : Nat) : Byte := v.extractLsb' (8 * k) 8

/-- The bytes of a 64-bit value in the order memory holds them: little-endian puts bits [8k+7:8k] at address `k` (R54),
big-endian the other way round. -/
def slotBytes (bigEndian : Bool) (v : Word) : List Byte :=
  let le := [byteOf v 0, byteOf v 1, byteOf v 2, byteOf v 3, byteOf v 4, byteOf v 5, byteOf v 6, byteOf v 7]
  if bigEndian then le.reverse else le

/-- A 64-bit value from its eight bytes, most significant first. -/
def wordOfSlot (b7 b6 b5 b4 b3 b2 b1 b0 : Byte) : Word := b7 ++ b6 ++ b5 ++ b4 ++ b3 ++ b2 ++ b1 ++ b0

/-- The 64-bit value at a byte offset, in the byte order of the parameter (R54). -/
def loadSlot (bigEndian : Bool) (off : Nat) (m : Memory) : Word :=
  let b (k : Nat) : Byte := memGet m (if bigEndian then off + (7 - k) else off + k)
  wordOfSlot (b 7) (b 6) (b 5) (b 4) (b 3) (b 2) (b 1) (b 0)

/-- Storing a 64-bit value at a byte offset (R50: all 64 bits). -/
def storeSlot (bigEndian : Bool) (off : Nat) (v : Word) (m : Memory) : Memory :=
  memStore off (slotBytes bigEndian v) m

/-- `NVMemRead(off)` (R6, R50). -/
def nvMemRead (off : Nat) (s : State) : Word := loadSlot s.cfg.nvMemBigEndian off s.nvmem

/-- `NVMemWrite(off, v)` (R6, R50). -/
def nvMemWrite (off : Nat) (v : Word) (s : State) : State :=
  s.setNvmem (storeSlot s.cfg.nvMemBigEndian off v s.nvmem)

/-- Whether a redirected access made now faults: only where `NVMemCanFault` lets one (R53, D8). -/
def nvMemAccessFaults (s : State) : Bool := s.cfg.nvMemCanFault && s.nvMemFaulting

/-! ### The registers -/

/-- `v[31:0]`. -/
def lowHalf (v : Word) : BitVec 32 := v.extractLsb' 0 32

/-- `v[63:32]`. -/
def highHalf (v : Word) : BitVec 32 := v.extractLsb' 32 32

/-- `zext_64(v[31:0])`: what `AP0R[m]` keeps of a value (R22). -/
def keepLow (v : Word) : Word := (lowHalf v).setWidth 64

/-- `AP0R[m]` as it reads: bits [63:32] always as zero (R22). -/
def ap0r (m : Fin 4) (s : State) : Word := keepLow s.ap0r[m]

/-- `AP0R[m] <- v`: bits [63:32] are RES0 and are not kept (R22; UNVERIFIED, log entry 9). -/
def setAp0r (m : Fin 4) (v : Word) (s : State) : State := s.setAp0r (s.ap0r.set m (keepLow v))

/-- What an access that passes the checks reads: `AP0R[m]`, or zero where EL2 is not implemented (R29; UNVERIFIED, log
entry 9). -/
def directRead (m : Fin 4) (s : State) : Word := if s.cfg.haveEL2 then ap0r m s else 0

/-- The AArch32 register `ICH_AP0R<n>`: the same storage, bits [31:0] (R28; log entry 22). -/
def aarch32View (n : Fin 4) (s : State) : BitVec 32 := lowHalf (ap0r n s)

/-- `ICH_AP1R<n>_EL2` (R35). -/
def ap1r (n : Fin 4) (s : State) : Word := s.ap1r[n]

/-- `ICH_AP1R<n>_EL2 <- v`. -/
def setAp1r (n : Fin 4) (v : Word) (s : State) : State := s.setAp1r (s.ap1r.set n v)

/-- `last_read[m] <- v` (R38). -/
def setLastRead (m : Fin 4) (v : Word) (s : State) : State := s.setLastReads (s.lastRead.set m (some v))

/-- `pc <- pc + 4`, modulo 2^64 (R36; DESIGN CHOICE, log entry 11). -/
def advancePc (s : State) : State := s.setPc (s.pc + 4)

/-- The exception registers of a level. -/
def bank (l : ELx) (s : State) : ExcBank :=
  match l with
  | .el1 => s.bank1
  | .el2 => s.bank2
  | .el3 => s.bank3

/-- Writing the exception registers of a level. -/
def setBank (l : ELx) (b : ExcBank) (s : State) : State :=
  match l with
  | .el1 => { s with bank1 := b }
  | .el2 => { s with bank2 := b }
  | .el3 => { s with bank3 := b }

/-! ### Exceptions -/

/-- `ESR_ELx` of an Undefined Instruction exception: EC 0, IL 1, ISS 0 (R110). -/
def undefinedEsr : BitVec 32 := 0x02000000#32

/-- The level an `Undefined` is taken to: EL1 when raised at EL0 (EL2 if `EL2Enabled` and `HCR_EL2.TGE = 1`), otherwise
the level it was raised at (R110). -/
def undefinedTarget (s : State) : ELx :=
  match s.pstate.el with
  | .el0 => if s.el2Enabled && s.tge then .el2 else .el1
  | .el1 => .el1
  | .el2 => .el2
  | .el3 => .el3

/-- The number `0x18` of `AArch64.SystemAccessTrap(ELx, 0x18)` (R111). -/
def sysTrapCode : BitVec 6 := 0x18#6

/-- `ISS` of a `SysTrap`: zero, `Op0`, `Op2`, `Op1`, `CRn`, `Rt`, `CRm`, `Direction` (R114). -/
def sysTrapIss (d : Dir) (m : Fin 4) (t : Nat) : BitVec 25 :=
  0#3 ++ op0Code ++ op2Code m ++ op1Code ++ crnCode ++ BitVec.ofNat 5 t ++ crmCode ++ dirBit d

/-- `ESR_ELx` of a `SysTrap`: `EC` in [31:26], `IL = 1` in [25], `ISS` (R114). -/
def sysTrapEsr (d : Dir) (m : Fin 4) (t : Nat) : BitVec 32 := sysTrapCode ++ 1#1 ++ sysTrapIss d m t

/-- The vector offset of a synchronous exception taken from the current level to `target` (R116). The PE is in AArch64
state, so the offset 0x600 of AArch32 state does not arise. -/
def vectorOffset (target : ELx) (s : State) : Word :=
  if s.pstate.el.rank < target.toEL.rank then 0x400
  else if s.pstate.sp then 0x200
  else 0x000

/-- Taking an exception to `target` (R116): `SPSR_ELx`, `ELR_ELx` and `ESR_ELx` are written, `PSTATE` changes, and the pc
goes to `VBAR_ELx` plus the offset. DESIGN CHOICE (log entry 27): the spec gives neither the legal values of `VBAR_ELx` nor a
wrap, so any 64-bit value stands and the sum wraps modulo 2^64. -/
def enterException (target : ELx) (returnAddress : Word) (esr : BitVec 32) (s : State) : State :=
  let b := bank target s
  let handler := b.vbar + vectorOffset target s
  let saved : ExcBank := { b with spsr := s.pstate, elr := returnAddress, esr := esr }
  let entered : PState :=
    { s.pstate with el := target.toEL, sp := true, d := true, a := true, i := true, f := true, ss := false, il := false }
  ((setBank target saved s).setPState entered).setPc handler

/-- What the composed machine's exception entry does with a raised outcome (R116; PRESUMED, log entry 3); without a base PE, and for the outcomes
whose entry the spec does not describe, the step is terminal (R116, D13; R53). -/
def deliver (s : State) (f : Fault) : Host.Outcome State Fault Refusal :=
  if s.cfg.composed then
    match f with
    | .undefined ret => .next (enterException (undefinedTarget s) ret undefinedEsr s)
    | .sysTrap target _ ret esr => .next (enterException target ret esr s)
    | .nvMemFault ret => .fault (.nvMemFault ret)
    | .pcAlignment pc => .fault (.pcAlignment pc)
  else .fault f

/-- A step's outcome, a raised one handed to `deliver`. -/
def deliverOutcome (s : State) (o : Host.Outcome State Fault Refusal) : Host.Outcome State Fault Refusal :=
  match o with
  | .next t => .next t
  | .fault f => deliver s f
  | .refused r => .refused r

/-- The consistency of the control inputs (R33): `EL = EL2` implies `HaveEL2` and `EL2Enabled`; `EL = EL3` implies
`HaveEL3`; `EL2Enabled` implies `HaveEL2` (PRESUMED, log entry 18). -/
def consistentControls (c : Config) (el : EL) (el2Enabled : Bool) : Bool :=
  (el != .el2 || (c.haveEL2 && el2Enabled)) && (el != .el3 || c.haveEL3) && (!el2Enabled || c.haveEL2)

/-- The level whose saved registers `ERET` uses, none at EL0. -/
def currentELx (s : State) : Option ELx :=
  match s.pstate.el with
  | .el0 => none
  | .el1 => some .el1
  | .el2 => some .el2
  | .el3 => some .el3

/-- Returning from an exception (R117): `PSTATE` is restored from `SPSR_ELx` and the pc from `ELR_ELx`. A return to a higher
level, or to a level the controls do not allow, is none the spec speaks of (PRESUMED, log entry 20). -/
def exceptionReturn (s : State) : Host.Outcome State Fault Refusal :=
  match currentELx s with
  | none => .refused .illegalReturn
  | some l =>
    if (bank l s).spsr.el.rank ≤ s.pstate.el.rank then
      if consistentControls s.cfg (bank l s).spsr.el s.el2Enabled then
        .next ((s.setPState (bank l s).spsr).setPc (bank l s).elr)
      else .refused .inconsistentInput
    else .refused .illegalReturn

/-! ### Raising -/

/-- `raise Undefined()`: nothing changes, and the return address is the accessor's own (R110, R36). -/
def raiseUndefined (s : State) : Host.Outcome State Fault Refusal := .fault (.undefined s.pc)

/-- `raise SysTrap(target, 0x18)`: nothing changes (R111, R36). -/
def raiseSysTrap (target : ELx) (d : Dir) (m : Fin 4) (t : Nat) (s : State) : Host.Outcome State Fault Refusal :=
  .fault (.sysTrap target sysTrapCode s.pc (sysTrapEsr d m t))

/-- The outcome `NVMemFault`: nothing changes (R53). -/
def raiseNvMemFault (s : State) : Host.Outcome State Fault Refusal := .fault (.nvMemFault s.pc)

end Sys2Proof.Machine
end

