-- ==== Sys2Proof/Machine/Operands.lean ====
section
/-! DEFINITION. The operand forms: the general-purpose register `<Xt>` (spec/10_state.md R32) and the `NVMem` slot of a
register index (spec/20_memory.md R50). -/

namespace Sys2Proof.Machine

/-- `x[t]`: `X0` to `X30`, and `XZR` reads as zero (R32; PRESUMED, log entry 10). -/
def readX (t : Nat) (s : State) : Word := if h : t < 31 then s.x[t] else 0

/-- `x[t] <- v`: a write to `XZR` is discarded (R32). -/
def writeX (t : Nat) (v : Word) (s : State) : State := if h : t < 31 then s.setXs (s.x.set t v) else s

/-- `0x480 + 8*m` (R50). -/
def nvMemOffset (m : Fin 4) : Nat := 0x480 + 8 * m.val

end Sys2Proof.Machine
end

