-- ==== Sys2Proof/Machine/Access.lean ====
section
/-! DEFINITION. The access checks the eight accessors share (spec/40_mrs_ich_ap0r.md R90, spec/60_exceptions.md R113). -/

namespace Sys2Proof.Machine

/-- What the checks decide. -/
inductive Access where
  /-- `raise Undefined()` -/
  | undefined
  /-- `raise SysTrap(target, 0x18)` -/
  | trap (target : ELx)
  /-- redirected to the `NVMem` slot -/
  | nvMem
  /-- the register itself -/
  | direct
  deriving DecidableEq, Repr

/-- The sub-chain of EL1, lines (4a) to (4c): the `NV2` redirect, then the `NV` trap, then UNDEFINED. -/
def checkEL1 (s : State) : Access :=
  if s.el2Enabled && s.nv2 && s.nv then .nvMem
  else if s.el2Enabled && s.nv then .trap .el2
  else .undefined

/-- The chain of R90, lines (0) to (6), in its order. -/
def accessCheck (m : Fin 4) (s : State) : Access :=
  if !s.cfg.present then .undefined
  else if m == 1 && decide (s.cfg.pre.bits < 6) then .undefined
  else if (m == 2 || m == 3) && decide (s.cfg.pre.bits < 7) then .undefined
  else
    match s.pstate.el with
    | .el0 => .undefined
    | .el1 => checkEL1 s
    | .el2 => if s.sreEL2 then .direct else .trap .el2
    | .el3 => if s.sreEL3 then .direct else .trap .el3

end Sys2Proof.Machine
end

