-- ==== Sys2Proof/Machine/Mrs.lean ====
section
/-! DEFINITION. The read accessors (spec/40_mrs_ich_ap0r.md R90 to R94). -/

namespace Sys2Proof.Machine

/-- Lines (5b) and (6b) of R90: the value goes to `x[t]` and to `last_read[m]`. -/
def readDirect (m : Fin 4) (t : Nat) (s : State) : State :=
  advancePc (setLastRead m (directRead m s) (writeX t (directRead m s) s))

/-- Line (4a) of R90: the slot's 64 bits go to `x[t]`. -/
def readRedirected (m : Fin 4) (t : Nat) (s : State) : State :=
  advancePc (writeX t (nvMemRead (nvMemOffset m) s) s)

/-- `ReadAP0R(m, t)` (R90). -/
def readAP0R (m : Fin 4) (t : Nat) (s : State) : Host.Outcome State Fault Refusal :=
  match accessCheck m s with
  | .undefined => raiseUndefined s
  | .trap target => raiseSysTrap target .read m t s
  | .nvMem => if nvMemAccessFaults s then raiseNvMemFault s else .next (readRedirected m t s)
  | .direct => .next (readDirect m t s)

/-- `MRS <Xt>, ICH_AP0R0_EL2` (R91). -/
def execMrsAp0r0 (t : Nat) (s : State) : Host.Outcome State Fault Refusal := readAP0R 0 t s

/-- `MRS <Xt>, ICH_AP0R1_EL2` (R92). -/
def execMrsAp0r1 (t : Nat) (s : State) : Host.Outcome State Fault Refusal := readAP0R 1 t s

/-- `MRS <Xt>, ICH_AP0R2_EL2` (R93). -/
def execMrsAp0r2 (t : Nat) (s : State) : Host.Outcome State Fault Refusal := readAP0R 2 t s

/-- `MRS <Xt>, ICH_AP0R3_EL2` (R94). -/
def execMrsAp0r3 (t : Nat) (s : State) : Host.Outcome State Fault Refusal := readAP0R 3 t s

end Sys2Proof.Machine
end

