-- ==== Sys2Proof/Machine/Flags.lean ====
section
/-! DEFINITION. The marks of spec/10_state.md R37. No instruction of the spec reads or writes a condition flag (R36); the
marks are what an instruction's result is judged by. -/

namespace Sys2Proof.Machine

/-- Whether a value may be written to `AP0R[m]` without the mark `unpred_value`: its bits [31:0] are zero, or those of the
last value read from the same register (R102; UNVERIFIED, log entry 13). -/
def valueAdmitted (m : Fin 4) (v : Word) (s : State) : Bool :=
  lowHalf v == 0 ||
    match s.lastRead[m] with
    | some w => lowHalf w == lowHalf v
    | none => false

/-- The overlap of one register: a bit set in both groups (R35; DEDUCED, log entry 25). -/
def overlapAt (n : Fin 4) (s : State) : Bool := s.cfg.implemented n && (ap0r n s &&& ap1r n s) != 0

/-- `Overlap` (R35). -/
def overlap (s : State) : Bool := overlapAt 0 s || overlapAt 1 s || overlapAt 2 s || overlapAt 3 s

/-- One implemented register is not zero (R31). -/
def activeAt (n : Fin 4) (s : State) : Bool := s.cfg.implemented n && ap0r n s != 0

/-- "some implemented `AP0R[m]` is not zero" (R37). -/
def anyActive (s : State) : Bool := activeAt 0 s || activeAt 1 s || activeAt 2 s || activeAt 3 s

/-- Setting `unpred_overlap` where `Overlap` holds while `EL2Enabled` (R35, R30). -/
def markOverlap (s : State) : State :=
  s.setMarks { s.marks with unpredOverlap := s.marks.unpredOverlap || (s.el2Enabled && overlap s) }

/-- Setting `unpred_legacy` after `AP0R[m]` changed: it is not zero while `EL2Enabled` and `LegacyVM` (R101, last line; DEDUCED,
log entry 16). -/
def markLegacyAt (m : Fin 4) (s : State) : State :=
  s.setMarks { s.marks with unpredLegacy := s.marks.unpredLegacy || (s.el2Enabled && s.legacyVM && ap0r m s != 0) }

/-- Setting `unpred_legacy` where some implemented register is not zero while `EL2Enabled` and `LegacyVM` (R31, R37). -/
def markLegacy (s : State) : State :=
  s.setMarks { s.marks with unpredLegacy := s.marks.unpredLegacy || (s.el2Enabled && s.legacyVM && anyActive s) }

/-- Evaluating both conditions after a change of an input (D19; UNVERIFIED, log entry 16). -/
def reevaluate (s : State) : State := markLegacy (markOverlap s)

/-- The marks a register write sets for the value itself, before it is stored (R101, R102, R103, R22). -/
def markWrite (m : Fin 4) (v : Word) (s : State) : State :=
  s.setMarks
    { s.marks with
      refusedRes0 := s.marks.refusedRes0 || highHalf v != 0
      unpredValue := s.marks.unpredValue || !valueAdmitted m v s
      unpredOrder := s.marks.unpredOrder || s.ap1rWritten }

end Sys2Proof.Machine
end

