-- ==== Sys2Proof/Machine/Msr.lean ====
section
/-! DEFINITION. The write accessors (spec/41_msr_ich_ap0r.md R100 to R107). -/

namespace Sys2Proof.Machine

/-- `RegWrite(m, v)`, line by line (R101): the marks of the value, the register, then `Overlap` and the legacy condition.
Where EL2 is not implemented the write is ignored (R29). -/
def regWrite (m : Fin 4) (v : Word) (s : State) : State :=
  if s.cfg.haveEL2 then markLegacyAt m (markOverlap (setAp0r m v (markWrite m v s))) else s

/-- Lines (5b) and (6b) of R100. -/
def writeDirect (m : Fin 4) (t : Nat) (s : State) : State := advancePc (regWrite m (readX t s) s)

/-- Line (4a) of R100: all 64 bits of `x[t]` go to the slot. -/
def writeRedirected (m : Fin 4) (t : Nat) (s : State) : State :=
  advancePc (nvMemWrite (nvMemOffset m) (readX t s) s)

/-- `WriteAP0R(m, t)` (R100). -/
def writeAP0R (m : Fin 4) (t : Nat) (s : State) : Host.Outcome State Fault Refusal :=
  match accessCheck m s with
  | .undefined => raiseUndefined s
  | .trap target => raiseSysTrap target .write m t s
  | .nvMem => if nvMemAccessFaults s then raiseNvMemFault s else .next (writeRedirected m t s)
  | .direct => .next (writeDirect m t s)

/-- `MSR ICH_AP0R0_EL2, <Xt>` (R104). -/
def execMsrAp0r0 (t : Nat) (s : State) : Host.Outcome State Fault Refusal := writeAP0R 0 t s

/-- `MSR ICH_AP0R1_EL2, <Xt>` (R105). -/
def execMsrAp0r1 (t : Nat) (s : State) : Host.Outcome State Fault Refusal := writeAP0R 1 t s

/-- `MSR ICH_AP0R2_EL2, <Xt>` (R106). -/
def execMsrAp0r2 (t : Nat) (s : State) : Host.Outcome State Fault Refusal := writeAP0R 2 t s

/-- `MSR ICH_AP0R3_EL2, <Xt>` (R107). -/
def execMsrAp0r3 (t : Nat) (s : State) : Host.Outcome State Fault Refusal := writeAP0R 3 t s

end Sys2Proof.Machine
end

