-- ==== Sys2Proof/Machine/Dispatch.lean ====
section
/-! DEFINITION. One arm per instruction. -/

namespace Sys2Proof.Machine

/-- The meaning of an instruction. -/
def exec (i : Instr) (s : State) : Host.Outcome State Fault Refusal :=
  match i with
  | .mrsAp0r0 t => Sys2Proof.Machine.execMrsAp0r0 t s
  | .mrsAp0r1 t => Sys2Proof.Machine.execMrsAp0r1 t s
  | .mrsAp0r2 t => Sys2Proof.Machine.execMrsAp0r2 t s
  | .mrsAp0r3 t => Sys2Proof.Machine.execMrsAp0r3 t s
  | .msrAp0r0 t => Sys2Proof.Machine.execMsrAp0r0 t s
  | .msrAp0r1 t => Sys2Proof.Machine.execMsrAp0r1 t s
  | .msrAp0r2 t => Sys2Proof.Machine.execMsrAp0r2 t s
  | .msrAp0r3 t => Sys2Proof.Machine.execMsrAp0r3 t s

end Sys2Proof.Machine
end

