-- ==== Sys2Proof/Machine/Priority.lean ====
section
/-! DEFINITION. Which bit stands for which priority (spec/10_state.md R24 to R27). -/

namespace Sys2Proof.Machine

/-- `level(PRE, p) = UInt(p[7 : 8-PRE])` (R27). -/
def level (pre : Pre) (p : Byte) : Nat := (p >>> (8 - pre.bits)).toNat

/-- `ApReg(PRE, p) = level div 32` (R27). -/
def apReg (pre : Pre) (p : Byte) : Fin 4 := Fin.ofNat 4 (level pre p / 32)

/-- `ApBit(PRE, p) = level mod 32` (R27). -/
def apBit (pre : Pre) (p : Byte) : Fin 32 := Fin.ofNat 32 (level pre p)

/-- `LevelName(PRE, n, x) = (32*n + x) * 2^(8-PRE)` (R27). -/
def levelName (pre : Pre) (n : Fin 4) (x : Fin 32) : Nat := (32 * n.val + x.val) * 2 ^ (8 - pre.bits)

/-- The value of a register with only bit `x` set. -/
def bitMask (x : Fin 32) : Word := BitVec.twoPow 64 x.val

end Sys2Proof.Machine
end

