-- ==== Sys2Proof/Machine/Vcpuif.lean ====
section
/-! DEFINITION. The virtual CPU interface (spec/60_exceptions.md R122 to R124). -/

namespace Sys2Proof.Machine

/-- When the interface may act (R124): `EL2Enabled`, the PE at EL1 or EL0, and the open guard `VcpuifEnabled`. Where the
registers are not present there is no interface (R2; DESIGN CHOICE, log entry 17). -/
def vcpuifMayAct (s : State) : Bool :=
  s.cfg.present && s.el2Enabled && (s.pstate.el == .el0 || s.pstate.el == .el1) && s.vcpuifEnabled

/-- Evaluating `Overlap` and the legacy condition "as in `RegWrite`" (R122, D19). -/
def settleMarks (n : Fin 4) (s : State) : State := markLegacyAt n (markOverlap s)

/-- `Activate0(p)` (R122): `AP0R[ApReg(PRE, p)][ApBit(PRE, p)] <- 1`. -/
def activate0 (p : Byte) (s : State) : Host.Outcome State Fault Refusal :=
  if vcpuifMayAct s then
    let n := apReg s.cfg.pre p
    .next (settleMarks n (setAp0r n (ap0r n s ||| bitMask (apBit s.cfg.pre p)) s))
  else .refused .vcpuifNotEnabled

/-- `Drop0(n, x)` (R123): `AP0R[n][x] <- 0`, for an implemented `n` and a bit that is 1. -/
def drop0 (n : Fin 4) (x : Fin 32) (s : State) : Host.Outcome State Fault Refusal :=
  if vcpuifMayAct s then
    if s.cfg.implemented n && (ap0r n s).getLsbD x.val then
      .next (settleMarks n (setAp0r n (ap0r n s &&& ~~~(bitMask x)) s))
    else .refused .dropNotEnabled
  else .refused .vcpuifNotEnabled

end Sys2Proof.Machine
end

