-- ==== Sys2Proof/Machine/Env.lean ====
section
/-! DEFINITION. What an event does (spec/10_state.md R33, R39; spec/70_reset_and_hazards.md R140; spec/92_eei_decisions.md
D18 to D22). -/

namespace Sys2Proof.Machine

/-- A memory that holds the four slots and nothing else (R52). -/
def slotMemory (bigEndian : Bool) (v : Vector Word 4) : Memory :=
  storeSlot bigEndian (nvMemOffset 3) v[3]
    (storeSlot bigEndian (nvMemOffset 2) v[2]
      (storeSlot bigEndian (nvMemOffset 1) v[1] (storeSlot bigEndian (nvMemOffset 0) v[0] [])))

/-- The state after a reset with the launch `l` (R40, R140): the registers zero, the ghost state initial, everything the
spec leaves open as the launch says. The parameters and the program text are no state (R4, R61). -/
def launchState (l : Launch) (s : State) : State where
  cfg := s.cfg
  ap0r := #v[0, 0, 0, 0]
  x := l.x
  pc := l.pc
  pstate := l.pstate
  el2Enabled := l.el2Enabled
  nv := l.nv
  nv2 := l.nv2
  tge := l.tge
  sreEL2 := l.sreEL2
  sreEL3 := l.sreEL3
  bank1 := l.bank1
  bank2 := l.bank2
  bank3 := l.bank3
  ap1r := l.ap1r
  legacyVM := l.legacyVM
  vcpuifEnabled := l.vcpuifEnabled
  nvMemFaulting := l.nvMemFaulting
  nvmem := slotMemory s.cfg.nvMemBigEndian l.slots
  text := s.text
  marks := Marks.none
  lastRead := #v[none, none, none, none]
  ap1rWritten := false
  turns := s.turns

/-- A reset whose launch meets the consistency premises of R33 (log entries 18, 19). -/
def resetEvent (l : Launch) (s : State) : Host.Outcome State Fault Refusal :=
  if consistentControls s.cfg l.pstate.el l.el2Enabled then .next (launchState l s) else .refused .inconsistentInput

/-- A change of `ICH_AP1R<n>_EL2`, after which both conditions are evaluated (D19). -/
def changeAp1r (n : Fin 4) (v : Word) (s : State) : State := reevaluate (setAp1r n v s)

/-- A direct write of `ICH_AP1R<n>_EL2`: it also sets `ap1r_written` (R39). -/
def writeAp1r (n : Fin 4) (v : Word) (s : State) : State := changeAp1r n v { s with ap1rWritten := true }

/-- `LegacyVM` changes; both conditions are evaluated when it becomes true (D19). -/
def changeLegacyVM (b : Bool) (s : State) : State :=
  if b && !s.legacyVM then reevaluate { s with legacyVM := b } else { s with legacyVM := b }

/-- `EL2Enabled` changes; both conditions are evaluated when it becomes true (D19). -/
def changeEL2Enabled (b : Bool) (s : State) : Host.Outcome State Fault Refusal :=
  if consistentControls s.cfg s.pstate.el b then
    .next (if b && !s.el2Enabled then reevaluate { s with el2Enabled := b } else { s with el2Enabled := b })
  else .refused .inconsistentInput

/-- `PSTATE` changes. -/
def changePState (p : PState) (s : State) : Host.Outcome State Fault Refusal :=
  if consistentControls s.cfg p.el s.el2Enabled then .next (s.setPState p) else .refused .inconsistentInput

/-- What each event does. -/
def applyEvent (e : Event) (s : State) : Host.Outcome State Fault Refusal :=
  match e with
  | .activate0 p => activate0 p s
  | .drop0 n x => drop0 n x s
  | .warmReset l => resetEvent l s
  | .coldReset l => resetEvent l s
  | .newRestoreSequence => .next { s with ap1rWritten := false }
  | .ap1rWrite n v => .next (writeAp1r n v s)
  | .ap1rChange n v => .next (changeAp1r n v s)
  | .setLegacyVM b => .next (changeLegacyVM b s)
  | .setEL2Enabled b => changeEL2Enabled b s
  | .setEL l => changePState { s.pstate with el := l } s
  | .setNV b => .next { s with nv := b }
  | .setNV2 b => .next { s with nv2 := b }
  | .setTGE b => .next { s with tge := b }
  | .setSreEL2 b => .next { s with sreEL2 := b }
  | .setSreEL3 b => .next { s with sreEL3 := b }
  | .setVcpuifEnabled b => .next { s with vcpuifEnabled := b }
  | .setNvMemFaulting b => .next { s with nvMemFaulting := b }
  | .nvMemStore m v => .next (nvMemWrite (nvMemOffset m) v s)
  | .setX t v => .next (writeX t.val v s)
  | .setPc v => .next (s.setPc v)
  | .setPState p => changePState p s
  | .setVbar l v => .next (setBank l { bank l s with vbar := v } s)
  | .setElr l v => .next (setBank l { bank l s with elr := v } s)
  | .setSpsr l p => .next (setBank l { bank l s with spsr := p } s)
  | .eret => exceptionReturn s

end Sys2Proof.Machine
end

