-- ==== Sys2Proof/Machine/Fetch.lean ====
section
/-! DEFINITION. Fetching an instruction from the program text (spec/30_encoding.md R72, spec/20_memory.md R55, R61). -/

namespace Sys2Proof.Machine

/-- A pc that is a multiple of 4 (R55, R72; log entry 11). -/
def pcAligned (pc : Word) : Bool := pc &&& 3#64 == 0#64

/-- The word at an address of the program text: four bytes, little-endian (R72). -/
def textWord (text : Memory) (a : Nat) : OpWord :=
  wordOfBytes (memGet text a) (memGet text (a + 1)) (memGet text (a + 2)) (memGet text (a + 3))

/-- The word at the pc. -/
def fetchWord (s : State) : OpWord := textWord s.text s.pc.toNat

/-- Placing a word in the program text at the pc, which is first brought to a multiple of 4, with every turn to come the
PE's: what an outside loader does before the machine runs (log entry 8). -/
def placeWord (w : OpWord) (s : State) : State :=
  let pc := s.pc &&& ~~~3#64
  { s with pc := pc, text := memStore pc.toNat (bytesOfWord w) s.text, turns := [] }

end Sys2Proof.Machine
end

