-- ==== Sys2Proof/Machine/Step.lean ====
section
/-! DEFINITION. One step of the machine: the turn of the PE, which fetches, decodes and runs one instruction (R9, R58), or
of an event. -/

namespace Sys2Proof.Machine

/-- The PE's turn: the word at the pc is decoded and run, and a raised outcome is handed on (R116). -/
def peStep (s : State) : Host.Outcome State Fault Refusal :=
  if pcAligned s.pc then
    match decode (fetchWord s) with
    | .instr i => deliverOutcome s (exec i s)
    | .reject e => .refused (.notOfThisSpec e (fetchWord s))
  else .fault (.pcAlignment s.pc)

/-- One step: the next turn is taken off the list; an empty list leaves every turn to the PE. -/
def step (s : State) : Host.Outcome State Fault Refusal :=
  match s.turns with
  | [] => peStep s
  | .pe :: rest => peStep (s.setTurns rest)
  | .env e :: rest => applyEvent e (s.setTurns rest)

/-- `s` with an instruction placed where the next step fetches it. -/
def State.withFetchWord (s : State) (nbits w : Nat) : State := placeWord (BitVec.ofNat 32 (w % 2 ^ nbits)) s

end Sys2Proof.Machine
end

