-- ==== Sys2Proof/Safety.lean ====
section
/-! DEFINITION. What claims are stated in: the invariant of the machine, and which runs a claim is admitted of
(spec/10_state.md R37). -/

namespace Sys2Proof.Machine

/-- The state an outcome answers, if it is a next state. -/
def nextOf : Host.Outcome State Fault Refusal → Option State
  | .next s => some s
  | .fault _ => none
  | .refused _ => none

/-- The fault an outcome answers, if it is one. -/
def faultOf : Host.Outcome State Fault Refusal → Option Fault
  | .next _ => none
  | .fault f => some f
  | .refused _ => none

/-- The refusal an outcome answers, if it is one. -/
def refusalOf : Host.Outcome State Fault Refusal → Option Refusal
  | .next _ => none
  | .fault _ => none
  | .refused r => some r

/-- A claim about virtual interrupt prioritization is admitted: no `unpred_*` mark is set (R37). -/
def Marks.admitPrioritization (k : Marks) : Bool :=
  !k.unpredValue && !k.unpredOrder && !k.unpredOverlap && !k.unpredLegacy

/-- A claim about bits [63:32] read back from a register is admitted (R37). -/
def Marks.admitUpperHalf (k : Marks) : Bool := !k.refusedRes0

/-- Every mark of `k` is set in `k'`. -/
def Marks.le (k k' : Marks) : Bool :=
  (!k.unpredValue || k'.unpredValue) && (!k.unpredOrder || k'.unpredOrder) && (!k.unpredOverlap || k'.unpredOverlap) &&
    (!k.unpredLegacy || k'.unpredLegacy) && (!k.refusedRes0 || k'.refusedRes0)

/-- A safe run's states: no mark is set, so every claim of the spec is admitted of them. -/
def State.safe (s : State) : Bool := s.marks == Marks.none

/-- A register that holds state: present, implemented, with EL2 implemented (R2, R20, R29). -/
def holdsState (m : Fin 4) (c : Config) : Bool := c.present && c.implemented m && c.haveEL2

/-- The invariant of the machine. -/
structure Invariant (s : State) : Prop where
  /-- the control inputs are consistent (R33) -/
  controls : consistentControls s.cfg s.pstate.el s.el2Enabled = true
  /-- bits [63:32] of every register are zero (R22) -/
  res0 : ∀ m : Fin 4, highHalf s.ap0r[m] = 0
  /-- a register that does not exist holds no state (R20, R29) -/
  absent : ∀ m : Fin 4, holdsState m s.cfg = false → s.ap0r[m] = 0
  /-- no value has been read from a register that is not implemented or not present (R20, R38) -/
  unread : ∀ m : Fin 4, (s.cfg.present && s.cfg.implemented m) = false → s.lastRead[m] = none
  /-- the last read values have bits [63:32] zero (R22, R38) -/
  lastRes0 : ∀ m : Fin 4, ∀ w, s.lastRead[m] = some w → highHalf w = 0
  /-- while `EL2Enabled`, an overlap is marked (R35) -/
  overlapMarked : s.el2Enabled = true → overlap s = true → s.marks.unpredOverlap = true
  /-- while `EL2Enabled` and `LegacyVM`, a register that is not zero is marked (R31) -/
  legacyMarked : s.el2Enabled = true → s.legacyVM = true → anyActive s = true → s.marks.unpredLegacy = true
  /-- the `NVMem` window is in canonical form -/
  nvmemForm : s.nvmem.wf
  /-- and holds nothing outside the four slots (R52) -/
  nvmemRange : ∀ c ∈ s.nvmem, 0x480 ≤ c.1 ∧ c.1 < 0x4A0
  /-- the program text is in canonical form -/
  textForm : s.text.wf

/-- The register exists: the family is present (R2) and this one is implemented (R3). -/
abbrev RegExists (m : Fin 4) (s : State) : Prop := s.cfg.present = true ∧ s.cfg.implemented m = true

/-- An access reaches the register itself, in the terms of R119: EL2 with `ICC_SRE_EL2.SRE = 1`, or EL3 with
`ICC_SRE_EL3.SRE = 1`. -/
abbrev DirectAccess (m : Fin 4) (s : State) : Prop :=
  RegExists m s ∧ ((s.pstate.el = .el2 ∧ s.sreEL2 = true) ∨ (s.pstate.el = .el3 ∧ s.sreEL3 = true))

/-- An access is redirected to the `NVMem` slot, in the terms of R119: EL1 with `EL2Enabled` and `NV2:NV = '11'`. -/
abbrev RedirectedAccess (m : Fin 4) (s : State) : Prop :=
  RegExists m s ∧ s.pstate.el = .el1 ∧ s.el2Enabled = true ∧ s.nv = true ∧ s.nv2 = true

/-- The guest levels EL0 and EL1. -/
abbrev AtGuestLevel (s : State) : Prop := s.pstate.el = .el0 ∨ s.pstate.el = .el1

/-- The state in which the PE's turn runs, if the next turn is the PE's. -/
def peTurn (s : State) : Option State :=
  match s.turns with
  | [] => some s
  | .pe :: rest => some (s.setTurns rest)
  | .env _ :: _ => none

/-- The event whose turn is next, if it is an event's. -/
def eventTurn (s : State) : Option Event :=
  match s.turns with
  | .env e :: _ => some e
  | _ => none

/-- A reset event. -/
def Event.isReset : Event → Bool
  | .warmReset _ | .coldReset _ => true
  | _ => false

/-- An outcome with its next state changed. -/
def mapNext (f : State → State) : Host.Outcome State Fault Refusal → Host.Outcome State Fault Refusal
  | .next s => .next (f s)
  | .fault r => .fault r
  | .refused r => .refused r

end Sys2Proof.Machine
end

