-- ==== Sys2Proof/Certificates/Slice0/Obligations.lean ====
section
/-! DEFINITION. The statements about the machine that the provers are asked to settle. Each docstring names the rule of
spec/ it formalises. `Instr.accessor .read m t` is `mrsAp0r<m> t` and `Instr.accessor .write m t` is `msrAp0r<m> t`, so a
statement over every `m` speaks of all four instructions of a direction. -/

open Sys2Proof Sys2Proof.Machine

/-! ### Encoding -/

/-- Words of every row, written out from the field layout of R72, and the words 95_test_vectors.md section 2 says are no
instruction of the spec. A sanity check. -/
def Obligations.WordsOfEachRowDecode : Prop :=
  decode 0b11010101001111001100100000000011#32 = .instr (.mrsAp0r0 3) ∧
  decode 0b11010101001111001100100000100101#32 = .instr (.mrsAp0r1 5) ∧
  decode 0b11010101001111001100100001011110#32 = .instr (.mrsAp0r2 30) ∧
  decode 0b11010101001111001100100001111111#32 = .instr (.mrsAp0r3 31) ∧
  decode 0b11010101000111001100100000011111#32 = .instr (.msrAp0r0 31) ∧
  decode 0b11010101000111001100100000100001#32 = .instr (.msrAp0r1 1) ∧
  decode 0b11010101000111001100100001001001#32 = .instr (.msrAp0r2 9) ∧
  decode 0b11010101000111001100100001101001#32 = .instr (.msrAp0r3 9) ∧
  decode 0xD53CC880#32 = .reject .reservedOp2 ∧ decode 0xD51CC8FF#32 = .reject .reservedOp2 ∧
  decode 0xD53CC900#32 = .reject .otherRegister ∧ decode 0xD538C800#32 = .reject .otherRegister

/-- R74: a word is the instruction of a row iff `w and mask == match`, with `Rt` free; and a decoder with one row per
direction, mask `0xFFFFFF80` and `m` in bits [6:5], is equivalent. The match values rest on general knowledge (G23), the
two-row form is D27. -/
def Obligations.DecodeFollowsOpcodeTable : Prop :=
  ∀ w : OpWord,
    (∀ i : Instr, decode w = .instr i ↔ (w &&& 0xFFFFFFE0#32 = rowMatch i ∧ i.rt = (w &&& 0x1F#32).toNat)) ∧
    (w &&& 0xFFFFFF80#32 = 0xD53CC800#32 →
      decode w = .instr (.accessor .read (w.extractLsb' 5 2).toFin (w &&& 0x1F#32).toNat)) ∧
    (w &&& 0xFFFFFF80#32 = 0xD51CC800#32 →
      decode w = .instr (.accessor .write (w.extractLsb' 5 2).toFin (w &&& 0x1F#32).toNat)) ∧
    (∀ i : Instr, decode w = .instr i → w &&& 0xFFFFFF80#32 = 0xD53CC800#32 ∨ w &&& 0xFFFFFF80#32 = 0xD51CC800#32)

/-- Decoding the word of a well-formed instruction gives it back, from a word and from the bytes memory holds, whatever
bytes follow. -/
def Obligations.DecodeOfEncodeIsIdentity : Prop :=
  ∀ i : Instr, i.wellFormed = true →
    decode (encode i) = .instr i ∧
    ∀ rest : List Byte, decodeBytes (bytesOfWord (encode i) ++ rest) = (.instr i, rest)

/-- Each word has one meaning: a word that decodes is the word of a well-formed instruction. -/
def Obligations.DecodedWordsReencode : Prop :=
  ∀ (w : OpWord) (i : Instr), decode w = .instr i → i.wellFormed = true ∧ encode i = w

/-- R72: the `MRS` word is `0xD53CC800 + 32*m + t` and the `MSR` word is `0xD51CC800 + 32*m + t`. -/
def Obligations.EncodedWordIsBasePlusIndexPlusRt : Prop :=
  ∀ (m : Fin 4) (t : Nat), t < 32 →
    (encode (.accessor .read m t)).toNat = 0xD53CC800 + 32 * m.val + t ∧
    (encode (.accessor .write m t)).toNat = 0xD51CC800 + 32 * m.val + t

/-- R75: the words with the family's op0, op1, CRn, CRm and op2 = 4..7 are not accepted, and a PE whose turn it is at
such a word takes no step. The refusal is the spec's treatment U12 (log entry 21). -/
def Obligations.ReservedOp2IsNotAccepted : Prop :=
  ∀ k : Nat, k < 0x80 → ∀ w : OpWord, (w = BitVec.ofNat 32 (0xD53CC880 + k) ∨ w = BitVec.ofNat 32 (0xD51CC880 + k)) →
    decode w = .reject .reservedOp2 ∧
    ∀ s : State, pcAligned s.pc = true → fetchWord s = w → peStep s = .refused (.notOfThisSpec .reservedOp2 w)

/-! ### Access checks -/

/-- R3: `PRE = 5` gives one register, `PRE = 6` two, `PRE = 7` four. -/
def Obligations.PreemptionBitsGiveRegisters : Prop :=
  ∀ c : Config, ∀ m : Fin 4,
    (c.implemented m = true ↔ m = 0 ∨ (m = 1 ∧ 6 ≤ c.pre.bits) ∨ ((m = 2 ∨ m = 3) ∧ 7 ≤ c.pre.bits)) ∧
    (c.pre = .five → (c.implemented m = true ↔ m.val < 1)) ∧
    (c.pre = .six → (c.implemented m = true ↔ m.val < 2)) ∧
    (c.pre = .seven → (c.implemented m = true ↔ m.val < 4))

/-- R112: the nine exceptions X1 to X9 of an accessor, each with its exact condition, and no other. -/
def Obligations.ExceptionsOfTheAccessors : Prop :=
  ∀ (d : Dir) (m : Fin 4) (t : Nat) (s : State), t < 32 →
    (exec (.accessor d m t) s = .fault (.undefined s.pc) ↔
      s.cfg.present = false ∨ s.cfg.implemented m = false ∨ s.pstate.el = .el0 ∨
        (s.pstate.el = .el1 ∧ ¬(s.el2Enabled = true ∧ s.nv = true))) ∧
    (exec (.accessor d m t) s = .fault (.sysTrap .el2 0x18#6 s.pc (sysTrapEsr d m t)) ↔
      RegExists m s ∧
        ((s.pstate.el = .el1 ∧ s.el2Enabled = true ∧ s.nv = true ∧ s.nv2 = false) ∨
         (s.pstate.el = .el2 ∧ s.sreEL2 = false))) ∧
    (exec (.accessor d m t) s = .fault (.sysTrap .el3 0x18#6 s.pc (sysTrapEsr d m t)) ↔
      RegExists m s ∧ s.pstate.el = .el3 ∧ s.sreEL3 = false) ∧
    (exec (.accessor d m t) s = .fault (.nvMemFault s.pc) ↔
      RedirectedAccess m s ∧ s.cfg.nvMemCanFault = true ∧ s.nvMemFaulting = true) ∧
    (∀ f, exec (.accessor d m t) s = .fault f →
      f = .undefined s.pc ∨ f = .sysTrap .el2 0x18#6 s.pc (sysTrapEsr d m t) ∨
      f = .sysTrap .el3 0x18#6 s.pc (sysTrapEsr d m t) ∨ f = .nvMemFault s.pc) ∧
    (∀ r, exec (.accessor d m t) s ≠ .refused r)

/-- R113: which outcome wins. Tests (0) to (2): an access to a register that does not exist is `Undefined` whatever else
holds, so it is neither trapped nor redirected. Tests (3) to (6): the sub-chain of the current level decides, and at EL1 the
redirect comes before the trap. `NV2` without `NV` is `Undefined` at EL1; each `SRE` bit is consulted at its own level only,
and `NV`, `NV2` at EL1 only. -/
def Obligations.FirstCheckInOrderDecides : Prop :=
  ∀ (d : Dir) (m : Fin 4) (t : Nat) (s : State),
    (¬ RegExists m s → exec (.accessor d m t) s = .fault (.undefined s.pc)) ∧
    (RegExists m s → accessCheck m s =
      match s.pstate.el with
      | .el0 => .undefined
      | .el1 =>
        if s.el2Enabled = true ∧ s.nv2 = true ∧ s.nv = true then .nvMem
        else if s.el2Enabled = true ∧ s.nv = true then .trap .el2
        else .undefined
      | .el2 => if s.sreEL2 = false then .trap .el2 else .direct
      | .el3 => if s.sreEL3 = false then .trap .el3 else .direct) ∧
    (s.pstate.el = .el1 → s.nv = false → exec (.accessor d m t) s = .fault (.undefined s.pc)) ∧
    (∀ b, s.pstate.el ≠ .el2 → accessCheck m { s with sreEL2 := b } = accessCheck m s) ∧
    (∀ b, s.pstate.el ≠ .el3 → accessCheck m { s with sreEL3 := b } = accessCheck m s) ∧
    (∀ b b', s.pstate.el ≠ .el1 → accessCheck m { s with nv := b, nv2 := b' } = accessCheck m s)

/-- R119: an access that is performed is performed on the register from EL2 and EL3 only, on the slot from EL1 only, and
never from EL0; each condition is enough, but for a redirected access that faults. -/
def Obligations.PrivilegeOfEachLevel : Prop :=
  ∀ (d : Dir) (m : Fin 4) (t : Nat) (s : State),
    ((∃ u, exec (.accessor d m t) s = .next u) ↔
      DirectAccess m s ∨ (RedirectedAccess m s ∧ ¬(s.cfg.nvMemCanFault = true ∧ s.nvMemFaulting = true)))

/-! ### The instructions, rule by rule -/

/-- The specialised procedure of R91 to R94, written as those rules write it. `absent` is the test on `PRE` of the rule,
`off` its `NVMem` offset. -/
def readRule (m : Fin 4) (absent : Bool) (off : Nat) (t : Nat) (s : State) : Host.Outcome State Fault Refusal :=
  if s.cfg.present = false ∨ absent = true ∨ s.pstate.el = .el0 then .fault (.undefined s.pc)
  else if s.pstate.el = .el1 ∧ s.el2Enabled = true ∧ s.nv2 = true ∧ s.nv = true then
    if s.cfg.nvMemCanFault = true ∧ s.nvMemFaulting = true then .fault (.nvMemFault s.pc)
    else .next { s with x := if h : t < 31 then s.x.set t (nvMemRead off s) else s.x, pc := s.pc + 4 }
  else if s.pstate.el = .el1 ∧ s.el2Enabled = true ∧ s.nv = true then
    .fault (.sysTrap .el2 0x18#6 s.pc (sysTrapEsr .read m t))
  else if s.pstate.el = .el1 then .fault (.undefined s.pc)
  else if s.pstate.el = .el2 ∧ s.sreEL2 = false then .fault (.sysTrap .el2 0x18#6 s.pc (sysTrapEsr .read m t))
  else if s.pstate.el = .el3 ∧ s.sreEL3 = false then .fault (.sysTrap .el3 0x18#6 s.pc (sysTrapEsr .read m t))
  else
    let v : Word := if s.cfg.haveEL2 = true then (s.ap0r[m].extractLsb' 0 32).setWidth 64 else 0
    .next { s with
      x := if h : t < 31 then s.x.set t v else s.x
      lastRead := s.lastRead.set m (some v)
      pc := s.pc + 4 }

/-- R91 to R94: the word of each `MRS` decodes to it, and it does what its specialised procedure says. -/
def Obligations.ReadAccessorsFollowTheirRules : Prop :=
  ∀ t : Nat, t < 32 →
    decode (BitVec.ofNat 32 (0xD53CC800 + t)) = .instr (.mrsAp0r0 t) ∧
    decode (BitVec.ofNat 32 (0xD53CC820 + t)) = .instr (.mrsAp0r1 t) ∧
    decode (BitVec.ofNat 32 (0xD53CC840 + t)) = .instr (.mrsAp0r2 t) ∧
    decode (BitVec.ofNat 32 (0xD53CC860 + t)) = .instr (.mrsAp0r3 t) ∧
    ∀ s : State,
      exec (.mrsAp0r0 t) s = readRule 0 false 0x480 t s ∧
      exec (.mrsAp0r1 t) s = readRule 1 (decide (s.cfg.pre.bits < 6)) 0x488 t s ∧
      exec (.mrsAp0r2 t) s = readRule 2 (decide (s.cfg.pre.bits < 7)) 0x490 t s ∧
      exec (.mrsAp0r3 t) s = readRule 3 (decide (s.cfg.pre.bits < 7)) 0x498 t s

/-- The value `x[t]` of a write: `XZR` gives zero. -/
def sourceValue (t : Nat) (s : State) : Word := if h : t < 31 then s.x[t] else 0

/-- `RegWrite(m, v)` of R101, condition by condition, on the state before the write. -/
def registerWritten (m : Fin 4) (v : Word) (s : State) : State :=
  if s.cfg.haveEL2 = true then
    let kept : Vector Word 4 := s.ap0r.set m ((v.extractLsb' 0 32).setWidth 64)
    let after : State := { s with ap0r := kept }
    { after with
      marks :=
        { refusedRes0 := s.marks.refusedRes0 || decide (v.extractLsb' 32 32 ≠ 0#32)
          unpredValue := s.marks.unpredValue ||
            !decide (v.extractLsb' 0 32 = 0#32 ∨ ∃ w ∈ s.lastRead[m], w.extractLsb' 0 32 = v.extractLsb' 0 32)
          unpredOrder := s.marks.unpredOrder || s.ap1rWritten
          unpredOverlap := s.marks.unpredOverlap || (s.el2Enabled && overlap after)
          unpredLegacy := s.marks.unpredLegacy || (s.el2Enabled && s.legacyVM && decide (ap0r m after ≠ 0)) } }
  else s

/-- The specialised procedure of R104 to R107. -/
def writeRule (m : Fin 4) (absent : Bool) (off : Nat) (t : Nat) (s : State) : Host.Outcome State Fault Refusal :=
  if s.cfg.present = false ∨ absent = true ∨ s.pstate.el = .el0 then .fault (.undefined s.pc)
  else if s.pstate.el = .el1 ∧ s.el2Enabled = true ∧ s.nv2 = true ∧ s.nv = true then
    if s.cfg.nvMemCanFault = true ∧ s.nvMemFaulting = true then .fault (.nvMemFault s.pc)
    else .next { nvMemWrite off (sourceValue t s) s with pc := s.pc + 4 }
  else if s.pstate.el = .el1 ∧ s.el2Enabled = true ∧ s.nv = true then
    .fault (.sysTrap .el2 0x18#6 s.pc (sysTrapEsr .write m t))
  else if s.pstate.el = .el1 then .fault (.undefined s.pc)
  else if s.pstate.el = .el2 ∧ s.sreEL2 = false then .fault (.sysTrap .el2 0x18#6 s.pc (sysTrapEsr .write m t))
  else if s.pstate.el = .el3 ∧ s.sreEL3 = false then .fault (.sysTrap .el3 0x18#6 s.pc (sysTrapEsr .write m t))
  else .next { registerWritten m (sourceValue t s) s with pc := s.pc + 4 }

/-- R104 to R107: the word of each `MSR` decodes to it, and it does what its specialised procedure says. -/
def Obligations.WriteAccessorsFollowTheirRules : Prop :=
  ∀ t : Nat, t < 32 →
    decode (BitVec.ofNat 32 (0xD51CC800 + t)) = .instr (.msrAp0r0 t) ∧
    decode (BitVec.ofNat 32 (0xD51CC820 + t)) = .instr (.msrAp0r1 t) ∧
    decode (BitVec.ofNat 32 (0xD51CC840 + t)) = .instr (.msrAp0r2 t) ∧
    decode (BitVec.ofNat 32 (0xD51CC860 + t)) = .instr (.msrAp0r3 t) ∧
    ∀ s : State,
      exec (.msrAp0r0 t) s = writeRule 0 false 0x480 t s ∧
      exec (.msrAp0r1 t) s = writeRule 1 (decide (s.cfg.pre.bits < 6)) 0x488 t s ∧
      exec (.msrAp0r2 t) s = writeRule 2 (decide (s.cfg.pre.bits < 7)) 0x490 t s ∧
      exec (.msrAp0r3 t) s = writeRule 3 (decide (s.cfg.pre.bits < 7)) 0x498 t s

/-- R90, lines (5b) and (6b): at EL2 or EL3 with the level's `SRE` bit set, each `MRS` of an existing register
completes: `x[t]` and `last_read[m]` receive the register, `XZR` discards it (R32), and nothing else changes but the pc.
The pc rule is the spec's decision D7 (log entry 11). -/
def Obligations.DirectReadCompletes : Prop :=
  ∀ (m : Fin 4) (t : Nat) (s : State), t < 32 → DirectAccess m s →
    exec (.accessor .read m t) s = .next { s with
      x := if h : t < 31 then s.x.set t (directRead m s) else s.x
      lastRead := s.lastRead.set m (some (directRead m s))
      pc := s.pc + 4 }

/-- R100, lines (5b) and (6b), with R22 and R29: each `MSR` of an existing register completes; bits [31:0] of `x[t]`
replace the register, bits [63:32] read as zero, and where EL2 is not implemented the pc alone changes. -/
def Obligations.DirectWriteCompletes : Prop :=
  ∀ (m : Fin 4) (t : Nat) (s : State), t < 32 → DirectAccess m s →
    ∃ u, exec (.accessor .write m t) s = .next u ∧ u.pc = s.pc + 4 ∧
      (s.cfg.haveEL2 = true →
        ap0r m u = (((readX t s).extractLsb' 0 32).setWidth 64 : Word) ∧ ∀ n, n ≠ m → ap0r n u = ap0r n s) ∧
      (s.cfg.haveEL2 = false → u = { s with pc := s.pc + 4 })

/-- R50: at EL1 with `EL2Enabled` and `NV2:NV = '11'` each `MRS` completes with the 64 bits of the slot `0x480 + 8*m`, but
for an access that faults. -/
def Obligations.RedirectedReadCompletes : Prop :=
  ∀ (m : Fin 4) (t : Nat) (s : State), t < 32 → RedirectedAccess m s →
    (s.cfg.nvMemCanFault = false ∨ s.nvMemFaulting = false) →
    exec (.accessor .read m t) s = .next { s with
      x := if h : t < 31 then s.x.set t (nvMemRead (0x480 + 8 * m.val) s) else s.x
      pc := s.pc + 4 }

/-- R50: at EL1 with `EL2Enabled` and `NV2:NV = '11'` each `MSR` completes; the slot `0x480 + 8*m` then reads all 64 bits of
`x[t]` (on a window in canonical form, as the invariant has it), no other byte of the window changes, and nothing but the
window and the pc does. -/
def Obligations.RedirectedWriteCompletes : Prop :=
  ∀ (m : Fin 4) (t : Nat) (s : State), t < 32 → RedirectedAccess m s →
    (s.cfg.nvMemCanFault = false ∨ s.nvMemFaulting = false) →
    ∃ mem, exec (.accessor .write m t) s = .next { s with nvmem := mem, pc := s.pc + 4 } ∧
      (s.nvmem.wf → loadSlot s.cfg.nvMemBigEndian (0x480 + 8 * m.val) mem = readX t s) ∧
      ∀ a, (a < 0x480 + 8 * m.val ∨ 0x480 + 8 * m.val + 8 ≤ a) → memGet mem a = memGet s.nvmem a

/-! ### Frames -/

/-- What no accessor writes, whatever its outcome path: the parameters, `PSTATE` with every flag (R36), the control inputs
(R33), the exception registers, `AP1R`, the environment's inputs, the program text (R61), `ap1r_written` (R39), the turns. -/
def sameSurroundings (s u : State) : Prop :=
  u.cfg = s.cfg ∧ u.pstate = s.pstate ∧ u.el2Enabled = s.el2Enabled ∧ u.nv = s.nv ∧ u.nv2 = s.nv2 ∧ u.tge = s.tge ∧
  u.sreEL2 = s.sreEL2 ∧ u.sreEL3 = s.sreEL3 ∧ u.bank1 = s.bank1 ∧ u.bank2 = s.bank2 ∧ u.bank3 = s.bank3 ∧
  u.ap1r = s.ap1r ∧ u.legacyVM = s.legacyVM ∧ u.vcpuifEnabled = s.vcpuifEnabled ∧ u.nvMemFaulting = s.nvMemFaulting ∧
  (∀ a, memGet u.text a = memGet s.text a) ∧ u.ap1rWritten = s.ap1rWritten ∧ u.turns = s.turns

/-- The frame of the four `MRS`: when one gives a next state, every register but `x[t]` is unchanged (all of them for
`XZR`), every `AP0R` and every mark is, every byte of memory is, and `last_read` changes at `m` only, on a direct read
only (R51, R56, R38). -/
def Obligations.ReadAccessorsFrame : Prop :=
  ∀ (m : Fin 4) (t : Nat) (s u : State), t < 32 → exec (.accessor .read m t) s = .next u →
    sameSurroundings s u ∧ (∀ k, k ≠ t → readX k u = readX k s) ∧ (t = 31 → u.x = s.x) ∧
    u.ap0r = s.ap0r ∧ u.marks = s.marks ∧ (∀ a, memGet u.nvmem a = memGet s.nvmem a) ∧
    (∀ n, n ≠ m → u.lastRead[n] = s.lastRead[n]) ∧ (s.pstate.el = .el1 → u.lastRead = s.lastRead)

/-- The frame of the four `MSR`: when one gives a next state, every general-purpose register and `last_read` is unchanged,
and every `AP0R` but `m`. From EL1 the store is to the eight bytes at `nvMemOffset m`, every other byte reads as before,
and no register or mark changes (R51); from another level every byte of memory reads as before. -/
def Obligations.WriteAccessorsFrame : Prop :=
  ∀ (m : Fin 4) (t : Nat) (s u : State), t < 32 → exec (.accessor .write m t) s = .next u →
    sameSurroundings s u ∧ u.x = s.x ∧ u.lastRead = s.lastRead ∧ (∀ n : Fin 4, n ≠ m → u.ap0r[n] = s.ap0r[n]) ∧
    (s.pstate.el = .el1 →
      u.ap0r = s.ap0r ∧ u.marks = s.marks ∧
      ∀ a, (a < nvMemOffset m ∨ nvMemOffset m + 8 ≤ a) → memGet u.nvmem a = memGet s.nvmem a) ∧
    (s.pstate.el ≠ .el1 → ∀ a, memGet u.nvmem a = memGet s.nvmem a)

/-! ### The register write and its marks -/

/-- R101: what a write that reaches the register does, mark by mark and in the register. The marks are the model's, not
the chip's (log entry 13). -/
def Obligations.RegisterWriteSetsRegisterAndMarks : Prop :=
  ∀ (m : Fin 4) (t : Nat) (s : State), t < 32 → DirectAccess m s →
    exec (.accessor .write m t) s = .next { registerWritten m (sourceValue t s) s with pc := s.pc + 4 }

/-- R102: a register write is admitted without the mark `unpred_value` iff `v[31:0]` is zero or equals bits [31:0] of
`last_read[m]`; any other value sets the mark. This strict reading is the spec's decision D17 (log entry 13). -/
def Obligations.ValueMarkIffNotLastReadNorZero : Prop :=
  ∀ (m : Fin 4) (t : Nat) (s u : State), t < 32 → DirectAccess m s → s.cfg.haveEL2 = true → s.marks.unpredValue = false →
    exec (.accessor .write m t) s = .next u →
    (u.marks.unpredValue = false ↔
      (readX t s).extractLsb' 0 32 = 0#32 ∨
        ∃ w, s.lastRead[m] = some w ∧ (readX t s).extractLsb' 0 32 = w.extractLsb' 0 32)

/-- R103: a register write to any `AP0R[m]` while `ap1r_written` is true sets `unpred_order`, and no other register
write sets it. The span of the order is the spec's decision D18 (log entry 15). -/
def Obligations.OrderMarkIffAp1rWritten : Prop :=
  ∀ (m : Fin 4) (t : Nat) (s u : State), t < 32 → DirectAccess m s → s.cfg.haveEL2 = true →
    exec (.accessor .write m t) s = .next u →
    (u.marks.unpredOrder = true ↔ s.marks.unpredOrder = true ∨ s.ap1rWritten = true)

/-- R22: a register always reads with bits [63:32] zero; `AP0R[m] <- v` stores `zext_64(v[31:0])`; and a register write
whose `v[63:32]` is not zero sets `refused_res0`. The treatment of RES0 is the spec's decision D4 (log entry 9). -/
def Obligations.UpperHalfIsRes0 : Prop :=
  ∀ (m : Fin 4) (s : State),
    (ap0r m s).extractLsb' 32 32 = 0#32 ∧
    (∀ v : Word, (setAp0r m v s).ap0r[m] = ((v.extractLsb' 0 32).setWidth 64 : Word)) ∧
    ∀ (t : Nat) (u : State), t < 32 → DirectAccess m s → s.cfg.haveEL2 = true → exec (.accessor .write m t) s = .next u →
      (u.marks.refusedRes0 = true ↔ s.marks.refusedRes0 = true ∨ (readX t s).extractLsb' 32 32 ≠ 0#32)

/-- R29: with EL2 not implemented, an access from EL3 that passes the checks reads 64 zero bits and a write is ignored;
no other level reaches the register. The reading is the spec's decision D5 (log entry 9). -/
def Obligations.RegisterIsRes0WithoutEL2 : Prop :=
  ∀ (m : Fin 4) (t : Nat) (s : State), t < 32 → s.cfg.haveEL2 = false → s.cfg.present = true → s.cfg.implemented m = true →
    consistentControls s.cfg s.pstate.el s.el2Enabled = true →
    (s.pstate.el = .el3 → s.sreEL3 = true →
      (∃ u, exec (.accessor .read m t) s = .next u ∧ readX t u = 0) ∧
      exec (.accessor .write m t) s = .next { s with pc := s.pc + 4 }) ∧
    (s.pstate.el ≠ .el3 → ∀ d, exec (.accessor d m t) s = .fault (.undefined s.pc))

/-- R28: the AArch32 register `ICH_AP0R<n>` is bits [31:0] of the same storage, so a direct write is seen there. -/
def Obligations.AArch32ViewSeesDirectWrites : Prop :=
  ∀ (m : Fin 4) (t : Nat) (s u : State), t < 32 → DirectAccess m s → s.cfg.haveEL2 = true →
    exec (.accessor .write m t) s = .next u →
    aarch32View m u = (readX t s).extractLsb' 0 32 ∧ ∀ n, n ≠ m → aarch32View n u = aarch32View n s

/-- R59 (a), V19: on one PE with nothing between, a direct read returns the value of the latest direct write of the same
register, and a direct write of one register leaves a direct read of another as it was; `XZR` reads zero (R32). Program
order is the spec's decision D11 (log entry 1). -/
def Obligations.DirectReadAfterWrite : Prop :=
  ∀ (m n : Fin 4) (t r : Nat) (s u : State), t < 32 → r < 32 → DirectAccess m s → DirectAccess n s → s.cfg.haveEL2 = true →
    exec (.accessor .write m t) s = .next u →
    ∃ w, exec (.accessor .read n r) u = .next w ∧
      readX r w =
        if r = 31 then 0
        else if n = m then (((readX t s).extractLsb' 0 32).setWidth 64 : Word)
        else ap0r n s

/-- R51, R59 (b): at EL1 on the redirected path an `MSR` followed by an `MRS` of the same `m` returns the value written, all
64 bits and in either byte order; and the slots of other registers are unrelated. The window is in canonical form, as the
invariant has it. -/
def Obligations.RedirectedReadAfterWrite : Prop :=
  ∀ (m n : Fin 4) (t r : Nat) (s u : State), t < 32 → r < 32 → RedirectedAccess m s → RedirectedAccess n s →
    s.nvmem.wf →
    exec (.accessor .write m t) s = .next u →
    ∃ w, exec (.accessor .read n r) u = .next w ∧
      readX r w = if r = 31 then 0 else if n = m then readX t s else nvMemRead (nvMemOffset n) s

/-- R144: saving a register with `MRS` and writing back exactly the value saved, with no `ICH_AP1R<n>_EL2` write before,
leaves every register and every mark as it was, on any state that meets the invariant. -/
def Obligations.SaveThenRestoreIsUnmarked : Prop :=
  ∀ (m : Fin 4) (t : Nat) (s : State), t < 31 → Invariant s → DirectAccess m s → s.ap1rWritten = false →
    ∃ u w, exec (.accessor .read m t) s = .next u ∧ exec (.accessor .write m t) u = .next w ∧
      w.ap0r = s.ap0r ∧ w.marks = s.marks

/-- R143: `MSR ICH_AP0R<m>_EL2, XZR` clears the register, and zero is always an admitted value. -/
def Obligations.ZeroWriteClearsUnmarked : Prop :=
  ∀ (m : Fin 4) (s : State), DirectAccess m s → s.cfg.haveEL2 = true →
    ∃ u, exec (.accessor .write m 31) s = .next u ∧ ap0r m u = 0 ∧
      u.marks.unpredValue = s.marks.unpredValue ∧ u.marks.refusedRes0 = s.marks.refusedRes0

/-! ### Which bit stands for which priority -/

/-- R24, R25, R26: the register and the bit of a priority at 5, 6 and 7 bits of preemption. -/
def Obligations.PriorityBitsOfEachCase : Prop :=
  ∀ p : Byte,
    ((apReg .five p).val = 0 ∧ (apBit .five p).val = (p.extractLsb' 3 5).toNat) ∧
    ((apReg .six p).val = (p.extractLsb' 7 1).toNat ∧ (apBit .six p).val = (p.extractLsb' 2 5).toNat) ∧
    ((apReg .seven p).val = (p.extractLsb' 6 2).toNat ∧ (apBit .seven p).val = (p.extractLsb' 1 5).toNat)

/-- R27: the register named is implemented; two priorities name one bit iff they have one level; every bit of an
implemented register stands for a priority, and `LevelName` names it with the unused low bits zero. -/
def Obligations.LevelsAreTheBitsOfImplementedRegisters : Prop :=
  ∀ c : Config,
    (∀ p : Byte, c.implemented (apReg c.pre p) = true ∧ 32 * (apReg c.pre p).val + (apBit c.pre p).val = level c.pre p ∧
      levelName c.pre (apReg c.pre p) (apBit c.pre p) = p.toNat / 2 ^ (8 - c.pre.bits) * 2 ^ (8 - c.pre.bits)) ∧
    (∀ p q : Byte, (apReg c.pre p = apReg c.pre q ∧ apBit c.pre p = apBit c.pre q) ↔
      p.toNat / 2 ^ (8 - c.pre.bits) = q.toNat / 2 ^ (8 - c.pre.bits)) ∧
    (∀ (n : Fin 4) (x : Fin 32), c.implemented n = true →
      ∃ p : Byte, apReg c.pre p = n ∧ apBit c.pre p = x ∧ p.toNat = levelName c.pre n x)

/-! ### The virtual CPU interface -/

/-- R122: `Activate0(p)` sets the bit of the priority's level and no other bit of any register; a bit that is already 1
leaves every register as it was; the marks are those the overlap and the legacy condition give afterwards. The
re-evaluation and the guard are the spec's decisions D19 and D21 (log entries 16, 17). -/
def Obligations.ActivateSetsTheBitOfItsLevel : Prop :=
  ∀ (p : Byte) (s : State), vcpuifMayAct s = true →
    ∃ u, applyEvent (.activate0 p) s = .next u ∧
      (∀ (n : Fin 4) (b : Nat), b < 64 →
        (ap0r n u).getLsbD b = ((ap0r n s).getLsbD b || decide (n = apReg s.cfg.pre p ∧ b = (apBit s.cfg.pre p).val))) ∧
      ((ap0r (apReg s.cfg.pre p) s).getLsbD (apBit s.cfg.pre p).val = true → ∀ n, ap0r n u = ap0r n s) ∧
      u.marks.unpredOverlap = (s.marks.unpredOverlap || overlap u) ∧
      u.marks.unpredLegacy = (s.marks.unpredLegacy || s.legacyVM) ∧
      (∃ regs k, u = { s with ap0r := regs, marks := k }) ∧
      u.marks.unpredValue = s.marks.unpredValue ∧ u.marks.unpredOrder = s.marks.unpredOrder ∧
      u.marks.refusedRes0 = s.marks.refusedRes0

/-- R123: `Drop0(n, x)`, for an implemented `n` and a bit that is 1, clears that bit and no other; otherwise there is no
such step. The caller's choice of (n, x) is the spec's decision D21 (log entry 17). -/
def Obligations.DropClearsOneBit : Prop :=
  ∀ (n : Fin 4) (x : Fin 32) (s : State), vcpuifMayAct s = true →
    (s.cfg.implemented n = true → (ap0r n s).getLsbD x.val = true →
      ∃ u, applyEvent (.drop0 n x) s = .next u ∧
        (∀ (k : Fin 4) (b : Nat), b < 64 →
          (ap0r k u).getLsbD b = ((ap0r k s).getLsbD b && !decide (k = n ∧ b = x.val))) ∧
        ∃ regs marks, u = { s with ap0r := regs, marks := marks }) ∧
    ((s.cfg.implemented n = false ∨ (ap0r n s).getLsbD x.val = false) →
      applyEvent (.drop0 n x) s = .refused .dropNotEnabled)

/-- R124: the operations of the interface are enabled only while `EL2Enabled` and the PE is at EL1 or EL0 (and the open
guard holds); at EL2 and EL3 no such step exists. The guard is the spec's decision D21, resting on general knowledge
(log entry 17). -/
def Obligations.InterfaceActsAtGuestLevelsOnly : Prop :=
  ∀ (s u : State) (e : Event), ((∃ p, e = .activate0 p) ∨ ∃ n x, e = .drop0 n x) →
    (applyEvent e s = .next u → s.el2Enabled = true ∧ AtGuestLevel s ∧ s.vcpuifEnabled = true) ∧
    ((s.el2Enabled = false ∨ s.pstate.el = .el2 ∨ s.pstate.el = .el3 ∨ s.vcpuifEnabled = false) →
      applyEvent e s = .refused .vcpuifNotEnabled)

/-! ### Overlap, legacy virtual machines, reset -/

/-- R39, R35: a direct write of `ICH_AP1R<n>_EL2` sets `ap1r_written` and, if an overlap results while `EL2Enabled`, the
mark `unpred_overlap`; `NewRestoreSequence` clears `ap1r_written` and nothing else. The events are the spec's decisions
D18 and D19 (log entries 15, 16). -/
def Obligations.Ap1rWritesAreRecorded : Prop :=
  ∀ (n : Fin 4) (v : Word) (s : State),
    (∃ u, applyEvent (.ap1rWrite n v) s = .next u ∧ ap1r n u = v ∧ u.ap1rWritten = true ∧ u.ap0r = s.ap0r ∧
      (u.marks.unpredOverlap = true ↔
        s.marks.unpredOverlap = true ∨
          (s.el2Enabled = true ∧ ∃ k : Fin 4, s.cfg.implemented k = true ∧ (ap0r k u &&& ap1r k u) ≠ 0))) ∧
    applyEvent .newRestoreSequence s = .next { s with ap1rWritten := false }

/-- R30: while `EL2Enabled` is false, a register write from EL3 is performed and sets neither `unpred_overlap` nor
`unpred_legacy`, whatever the registers hold. The reading is the spec's decision D25 (log entry 16). -/
def Obligations.NoOverlapOrLegacyMarkWhileEL2Disabled : Prop :=
  ∀ (m : Fin 4) (t : Nat) (s : State), t < 32 → RegExists m s → s.pstate.el = .el3 → s.sreEL3 = true → s.el2Enabled = false →
    ∃ u, exec (.accessor .write m t) s = .next u ∧
      u.marks.unpredOverlap = s.marks.unpredOverlap ∧ u.marks.unpredLegacy = s.marks.unpredLegacy

/-- D19: an overlap or a register left for a legacy virtual machine is marked when `EL2Enabled` becomes true. The
moments of evaluation are the spec's decision (log entry 16). -/
def Obligations.EnablingEL2EvaluatesTheMarks : Prop :=
  ∀ (s : State), s.el2Enabled = false → consistentControls s.cfg s.pstate.el true = true →
    ∃ u, applyEvent (.setEL2Enabled true) s = .next u ∧ u.el2Enabled = true ∧ u.ap0r = s.ap0r ∧
      (overlap s = true → u.marks.unpredOverlap = true) ∧
      (s.legacyVM = true → (∃ n : Fin 4, s.cfg.implemented n = true ∧ ap0r n s ≠ 0) → u.marks.unpredLegacy = true)

/-- R140: a Warm reset, and a Cold reset alike, makes every register zero and returns the ghost state to its initial
value, whatever the machine held and whatever values the launch gives the rest. A Cold reset as a Warm one, and the
launch, are the spec's decision D22 (log entry 19). -/
def Obligations.ResetClearsRegistersAndGhostState : Prop :=
  ∀ (l : Launch) (s : State) (rest : List Turn) (e : Event), e = .warmReset l ∨ e = .coldReset l →
    s.turns = .env e :: rest → consistentControls s.cfg l.pstate.el l.el2Enabled = true →
    ∃ u, step s = .next u ∧ (∀ m, ap0r m u = 0) ∧ u.marks = Marks.none ∧ (∀ m : Fin 4, u.lastRead[m] = none) ∧
      u.ap1rWritten = false ∧ u.pc = l.pc ∧ u.x = l.x ∧ u.pstate = l.pstate ∧
      (∀ m : Fin 4, nvMemRead (nvMemOffset m) u = l.slots[m]) ∧ u.cfg = s.cfg ∧ u.text = s.text

/-- R40: the state after reset holds the values the spec states: every register and every ghost value initial. -/
def Obligations.ResetStateHoldsTheStatedValues : Prop :=
  (∀ m, ap0r m State.reset = 0) ∧ State.reset.marks = Marks.none ∧ (∀ m : Fin 4, State.reset.lastRead[m] = none) ∧
  State.reset.ap1rWritten = false

/-! ### Taking an exception and returning -/

/-- R114: the syndrome of a `SysTrap` as a number. The layout is general knowledge, a parameter of the outcome (D15, log
entry 3). -/
def Obligations.TrapSyndromeIsBasePlusFields : Prop :=
  ∀ (m : Fin 4) (t : Nat), t < 32 →
    (sysTrapIss .read m t).toNat = 0x313010 + 0x20000 * m.val + 0x20 * t + 1 ∧
    (sysTrapIss .write m t).toNat = 0x313010 + 0x20000 * m.val + 0x20 * t ∧
    (sysTrapEsr .read m t).toNat = 0x62313010 + 0x20000 * m.val + 0x20 * t + 1 ∧
    (sysTrapEsr .write m t).toNat = 0x62313010 + 0x20000 * m.val + 0x20 * t

/-- R116: where the machine is composed with an AArch64 base PE, a raised `SysTrap` or `Undefined` is taken: the target
level's `SPSR`, `ELR` and `ESR` receive `PSTATE`, the accessor's own address and the syndrome, `PSTATE` changes, and the pc
goes to the vector. The entry is the spec's orientation, not the source's (log entry 3); any
`VBAR` and the wrap of the sum are the model's choice (log entry 27). -/
def Obligations.RaisedOutcomeEntersTheHandler : Prop :=
  ∀ (s : State) (target : ELx) (code : BitVec 6) (ret : Word) (esr : BitVec 32), s.cfg.composed = true →
    ∃ u, deliver s (.sysTrap target code ret esr) = .next u ∧
      bank target u = { spsr := s.pstate, elr := ret, esr := esr, vbar := (bank target s).vbar } ∧
      (∀ l, l ≠ target → bank l u = bank l s) ∧
      u.pstate = { s.pstate with
        el := target.toEL, sp := true, d := true, a := true, i := true, f := true, ss := false, il := false } ∧
      u.pc = (bank target s).vbar +
        (if s.pstate.el.rank < target.toEL.rank then 0x400 else if s.pstate.sp = true then 0x200 else 0) ∧
      u.x = s.x ∧ u.ap0r = s.ap0r ∧ u.marks = s.marks ∧ u.lastRead = s.lastRead ∧
      (∀ a, memGet u.nvmem a = memGet s.nvmem a) ∧
      deliver s (.undefined ret) =
        deliver s (.sysTrap
          (match s.pstate.el with
            | .el0 => if s.el2Enabled = true ∧ s.tge = true then .el2 else .el1
            | .el1 => .el1
            | .el2 => .el2
            | .el3 => .el3) code ret 0x02000000#32)

/-- R116, R36: without a base PE a raising step is terminal, its outcome carrying the accessor's own address; with or
without one, an `NVMemFault` is (R53). Stopping at the outcome is the spec's decision D13 (log entry 3). -/
def Obligations.RaisingStepIsTerminalUncomposed : Prop :=
  ∀ (s p : State) (i : Instr) (f : Fault), peTurn s = some p → pcAligned p.pc = true → decode (fetchWord p) = .instr i →
    exec i p = .fault f →
    (s.cfg.composed = false → step s = .fault f) ∧ (f = .nvMemFault p.pc → step s = .fault f)

/-- R117: a return from the handler restores `PSTATE` and goes to the saved address, so entering and returning at once
leaves the pc and `PSTATE` as they were. Entry and return are general knowledge (log entries 3, 20). -/
def Obligations.ReturnUndoesEntry : Prop :=
  ∀ (s : State) (target : ELx) (esr : BitVec 32), s.pstate.el.rank ≤ target.toEL.rank →
    consistentControls s.cfg s.pstate.el s.el2Enabled = true →
    ∃ u, applyEvent .eret (enterException target s.pc esr s) = .next u ∧
      u.pc = s.pc ∧ u.pstate = s.pstate ∧ u.x = s.x ∧ u.ap0r = s.ap0r ∧ u.nvmem = s.nvmem

/-- R117's nesting, on a composed machine: an EL2 handler entered because `ICC_SRE_EL2.SRE` was 0 that executes an accessor
without setting it first traps again to EL2. That the second access traps (X7) follows from R112, as R117 says; that the PE is
at EL2 once the first trap has been taken rests on the entry of R116, the spec's orientation, and on the parameter `composed`,
the model's (log entry 3). -/
def Obligations.HandlerWithoutSreTrapsAgain : Prop :=
  ∀ (d d' : Dir) (m n : Fin 4) (t r : Nat) (s u : State), s.cfg.composed = true → s.pstate.el = .el2 → s.sreEL2 = false →
    RegExists m s → RegExists n s → deliverOutcome s (exec (.accessor d m t) s) = .next u →
    u.pstate.el = .el2 ∧ exec (.accessor d' n r) u = .fault (.sysTrap .el2 0x18#6 u.pc (sysTrapEsr d' n r))

/-! ### The machine as a whole -/

/-- A step of the PE's turn runs the decoded instruction: with the pc a multiple of 4 and the word at the pc decoding to
`i`, a performed access is `exec`'s next state, and a raised outcome is handed to `deliver` (R9, R58, R116). -/
def Obligations.StepRunsTheDecodedInstruction : Prop :=
  ∀ (s p : State) (i : Instr), peTurn s = some p → pcAligned p.pc = true → decode (fetchWord p) = .instr i →
    (∀ u, exec i p = .next u → step s = .next u) ∧ (∀ f, exec i p = .fault f → step s = deliver p f) ∧
    (∀ r, exec i p = .refused r → step s = .refused r)

/-- Placing the word of a well-formed instruction makes the next step run it, and changes nothing else the instruction
sees but the program text and the pc's two low bits (log entry 8). -/
def Obligations.PlacedInstructionRunsNext : Prop :=
  ∀ (s : State) (i : Instr), i.wellFormed = true → s.text.wf →
    decodeTableWord 32 (encode i).toNat = some i ∧
    fetchWord (s.withFetchWord 32 (encode i).toNat) = encode i ∧
    step (s.withFetchWord 32 (encode i).toNat) =
      deliverOutcome (s.withFetchWord 32 (encode i).toNat) (exec i (s.withFetchWord 32 (encode i).toNat)) ∧
    ∃ text, s.withFetchWord 32 (encode i).toNat = { s with text := text, turns := [], pc := s.pc &&& ~~~3#64 }

/-- The invariant holds after reset. -/
def Obligations.InvariantHoldsAfterReset : Prop := Invariant State.reset

/-- Every step, of the PE or of an event, keeps the invariant: the control inputs stay consistent (R33), bits [63:32]
and registers that do not exist stay zero (R22, R20, R29), an overlap or a legacy breach is always marked (R35, R31),
and memory keeps its form. The marks and their moments are the spec's decisions D16 and D19, the refusal of inconsistent
events the model's (log entries 13, 16, 18). -/
def Obligations.StepKeepsTheInvariant : Prop :=
  ∀ s u : State, Invariant s → step s = .next u → Invariant u

/-- R37: the marks are sticky: a step that is no reset never clears one. It is the spec's decision D16 (log entry 13).
-/
def Obligations.MarksAreSticky : Prop :=
  ∀ s u : State, step s = .next u → (∀ e, eventTurn s = some e → e.isReset = false) → s.marks.le u.marks = true

/-- R23: a P bit is written by two parties: a register changes only by a direct `MSR` of it, by `Activate0` or `Drop0` of
it, or at a reset. -/
def Obligations.RegistersChangeOnlyByTheirWriters : Prop :=
  ∀ (s u : State) (m : Fin 4), step s = .next u → ap0r m u ≠ ap0r m s →
    (∃ p t, peTurn s = some p ∧ decode (fetchWord p) = .instr (.accessor .write m t) ∧ DirectAccess m p) ∨
    (∃ q, eventTurn s = some (.activate0 q) ∧ apReg s.cfg.pre q = m ∧ AtGuestLevel s ∧ s.el2Enabled = true) ∨
    (∃ x, eventTurn s = some (.drop0 m x) ∧ AtGuestLevel s ∧ s.el2Enabled = true) ∨
    (∃ e, eventTurn s = some e ∧ e.isReset = true)

/-- R4, R61: no step changes the parameters of the implementation or the program text. -/
def Obligations.ParametersAndTextNeverChange : Prop :=
  ∀ s u : State, step s = .next u → u.cfg = s.cfg ∧ u.text = s.text

/-- R118, R119: what software at EL0 or EL1 does never reaches the registers, and it learns nothing of them: with other
contents of `AP0R`, of `last_read` and of the marks, the PE's turn does the same to everything else and nothing to them. -/
def Obligations.GuestNeitherReachesNorLearnsTheRegisters : Prop :=
  ∀ (s : State) (regs : Vector Word 4) (last : Vector (Option Word) 4) (k : Marks), AtGuestLevel s →
    peStep { s with ap0r := regs, lastRead := last, marks := k } =
      mapNext (fun u => { u with ap0r := regs, lastRead := last, marks := k }) (peStep s) ∧
    ∀ u, peStep s = .next u → u.ap0r = s.ap0r ∧ u.lastRead = s.lastRead ∧ u.marks = s.marks

/-- D13, R117: the PE's turn changes the Exception level only by taking an exception, and then never to a lower one; an
accessor that completes leaves it (R36). -/
def Obligations.LevelChangesOnlyByTakingAnException : Prop :=
  ∀ (s u : State), peStep s = .next u → u.pstate ≠ s.pstate →
    s.cfg.composed = true ∧ s.pstate.el.rank ≤ u.pstate.el.rank ∧
    ∃ i f, decode (fetchWord s) = .instr i ∧ exec i s = .fault f

/-! ### The NVMem window -/

/-- R54, R50: the byte at `off + k` of a stored slot holds bits [8k+7:8k] in little-endian order, and byte `7 - k` in
big-endian order. The order is the spec's parameter D9, the bytes under a slot the model's choice (log entry 12). -/
def Obligations.SlotBytesFollowTheByteOrder : Prop :=
  ∀ (off k : Nat) (v : Word) (mem : Memory), k < 8 → mem.wf →
    memGet (storeSlot false off v mem) (off + k) = v.extractLsb' (8 * k) 8 ∧
    memGet (storeSlot true off v mem) (off + k) = v.extractLsb' (8 * (7 - k)) 8

/-- R50, R55: the four slots are at 0x480, 0x488, 0x490, 0x498, multiples of 8, adjacent and not overlapping. -/
def Obligations.SlotOffsets : Prop :=
  nvMemOffset 0 = 0x480 ∧ nvMemOffset 1 = 0x488 ∧ nvMemOffset 2 = 0x490 ∧ nvMemOffset 3 = 0x498 ∧
  ∀ m n : Fin 4, nvMemOffset m % 8 = 0 ∧ (m.val < n.val → nvMemOffset m + 8 ≤ nvMemOffset n)

/-- R59 (b), R118: what another agent stores to a slot is what the guest's next redirected `MRS` of it reads. -/
def Obligations.HostStoreReachesTheGuestRead : Prop :=
  ∀ (m : Fin 4) (t : Nat) (v : Word) (s u : State), t < 32 → RedirectedAccess m s → s.nvmem.wf →
    (s.cfg.nvMemCanFault = false ∨ s.nvMemFaulting = false) → applyEvent (.nvMemStore m v) s = .next u →
    ∃ w, exec (.accessor .read m t) u = .next w ∧ readX t w = if t = 31 then 0 else v

/-- Every operation on memory keeps the canonical form. The list form is the model's (log entry 7). -/
def Obligations.StoresKeepTheCanonicalForm : Prop :=
  ∀ (a : Nat) (bs : List Byte) (mem : Memory), mem.wf →
    (memStore a bs mem).wf ∧
    ∀ b, (b < a ∨ a + bs.length ≤ b) → memGet (memStore a bs mem) b = memGet mem b
end

