-- ==== Sys2Proof/Laws/Memory.lean ====
section
/-! SUPPORT. The laws of memory: read after write, and that every operation keeps the canonical form. -/

namespace Sys2Proof.Machine

theorem memGet_nil (a : Nat) : memGet [] a = memDefault := rfl

theorem memGet_memCons (a : Nat) (b : Byte) (m : Memory) (k : Nat) (h : ∀ c ∈ m, a < c.1) :
    memGet (memCons a b m) k = if k = a then b else memGet m k := by
  have hm : memGet m a = memDefault := by
    clear k
    induction m with
    | nil => rfl
    | cons c rest ih =>
      have hc := h c (by simp)
      simp only [memGet]
      rw [if_neg (by omega)]
      exact ih (fun d hd => h d (by simp [hd]))
  unfold memCons
  split
  · split
    · subst_vars; exact hm
    · rfl
  · simp only [memGet, eq_comm]

theorem memGet_memSet (a : Nat) (b : Byte) (m : Memory) (h : m.wf) (k : Nat) :
    memGet (memSet a b m) k = if k = a then b else memGet m k := by
  induction m with
  | nil => simpa [memSet] using memGet_memCons a b [] k (by simp)
  | cons c rest ih =>
    obtain ⟨hp, hd⟩ := h
    rw [List.pairwise_cons] at hp
    have hrest : Memory.wf rest := ⟨hp.2, fun d hdm => hd d (by simp [hdm])⟩
    simp only [memSet]
    split
    · refine memGet_memCons a b (c :: rest) k ?_
      intro d hdm
      rcases List.mem_cons.1 hdm with rfl | hdm
      · assumption
      · have := hp.1 d hdm; omega
    · split
      · rename_i h1 h2
        rw [memGet_memCons a b rest k (by intro d hdm; have := hp.1 d hdm; omega)]
        by_cases hk : k = a
        · simp [hk]
        · rw [if_neg hk, if_neg hk]; simp only [memGet]; rw [if_neg (by omega)]
      · simp only [memGet]
        rw [ih hrest]
        split <;> rename_i h1 h2 h3
        · rw [if_neg (by omega)]
        · rfl

theorem mem_memCons {a : Nat} {b : Byte} {m : Memory} {c : Host.Cell} (h : c ∈ memCons a b m) : c = (a, b) ∧ b ≠ memDefault ∨ c ∈ m := by
  unfold memCons at h
  split at h
  · exact .inr h
  · rcases List.mem_cons.1 h with rfl | h
    · exact .inl ⟨rfl, ‹_›⟩
    · exact .inr h

theorem mem_memSet {a : Nat} {b : Byte} {m : Memory} {c : Host.Cell} (h : c ∈ memSet a b m) : c = (a, b) ∧ b ≠ memDefault ∨ c ∈ m := by
  induction m with
  | nil => exact mem_memCons h
  | cons d rest ih =>
    simp only [memSet] at h
    split at h
    · exact mem_memCons h
    · split at h
      · rcases mem_memCons h with h | h
        · exact .inl h
        · exact .inr (List.mem_cons_of_mem _ h)
      · rcases List.mem_cons.1 h with rfl | h
        · exact .inr (by simp)
        · rcases ih h with h | h
          · exact .inl h
          · exact .inr (List.mem_cons_of_mem _ h)

theorem memCons_wf {a : Nat} {b : Byte} {m : Memory} (h : m.wf) (hlt : ∀ c ∈ m, a < c.1) : (memCons a b m).wf := by
  unfold memCons
  split
  · exact h
  · refine ⟨List.pairwise_cons.2 ⟨fun c hc => hlt c hc, h.1⟩, ?_⟩
    intro c hc
    rcases List.mem_cons.1 hc with rfl | hc
    · assumption
    · exact h.2 c hc

theorem memSet_wf (a : Nat) (b : Byte) {m : Memory} (h : m.wf) : (memSet a b m).wf := by
  induction m with
  | nil => exact memCons_wf h (by simp)
  | cons c rest ih =>
    obtain ⟨hp, hd⟩ := h
    rw [List.pairwise_cons] at hp
    have hrest : Memory.wf rest := ⟨hp.2, fun d hdm => hd d (by simp [hdm])⟩
    simp only [memSet]
    split
    · refine memCons_wf ⟨List.pairwise_cons.2 hp, hd⟩ ?_
      intro d hdm
      rcases List.mem_cons.1 hdm with rfl | hdm
      · assumption
      · have := hp.1 d hdm; omega
    · split
      · exact memCons_wf hrest (by intro d hdm; have := hp.1 d hdm; omega)
      · refine ⟨List.pairwise_cons.2 ⟨?_, (ih hrest).1⟩, ?_⟩
        · intro d hdm
          rcases mem_memSet hdm with ⟨rfl, -⟩ | hdm
          · show c.1 < a
            omega
          · exact hp.1 d hdm
        · intro d hdm
          rcases List.mem_cons.1 hdm with rfl | hdm
          · exact hd _ (by simp)
          · exact (ih hrest).2 d hdm

/-- A byte at another address is unaffected, whatever the form of the memory. -/
theorem memGet_memSet_of_ne (a : Nat) (b : Byte) (m : Memory) {k : Nat} (hk : k ≠ a) :
    memGet (memSet a b m) k = memGet m k := by
  have hcons : ∀ m, memGet (memCons a b m) k = memGet m k := by
    intro m
    unfold memCons
    split
    · rfl
    · simp only [memGet]; rw [if_neg (Ne.symm hk)]
  induction m with
  | nil => exact hcons []
  | cons c rest ih =>
    simp only [memSet]
    split
    · exact hcons _
    · split
      · rename_i h
        rw [hcons]; simp only [memGet]; rw [if_neg (by omega)]
      · simp only [memGet, ih]

theorem memStore_wf (a : Nat) (bs : List Byte) {m : Memory} (h : m.wf) : (memStore a bs m).wf := by
  induction bs generalizing a m with
  | nil => exact h
  | cons b bs ih => exact ih (a + 1) (memSet_wf a b h)

theorem memGet_memStore_outside (a : Nat) (bs : List Byte) (m : Memory) {k : Nat} (hk : k < a ∨ a + bs.length ≤ k) :
    memGet (memStore a bs m) k = memGet m k := by
  induction bs generalizing a m with
  | nil => rfl
  | cons b bs ih =>
    simp only [List.length_cons] at hk
    simp only [memStore]
    rw [ih (a + 1) _ (by omega), memGet_memSet_of_ne a b m (by omega)]

theorem memGet_memStore_inside (a : Nat) (bs : List Byte) {m : Memory} (h : m.wf) (k : Nat) (hk : k < bs.length) :
    memGet (memStore a bs m) (a + k) = bs[k] := by
  induction bs generalizing a m k with
  | nil => simp at hk
  | cons b bs ih =>
    simp only [memStore]
    cases k with
    | zero =>
      rw [memGet_memStore_outside _ _ _ (by omega), Nat.add_zero, memGet_memSet a b m h, if_pos rfl]
      rfl
    | succ k =>
      have := ih (a + 1) (memSet_wf a b h) k (by simpa using hk)
      rw [show a + (k + 1) = a + 1 + k by omega, this]
      rfl

theorem mem_memStore {a : Nat} {bs : List Byte} {m : Memory} {c : Host.Cell} (h : c ∈ memStore a bs m) :
    (a ≤ c.1 ∧ c.1 < a + bs.length) ∨ c ∈ m := by
  induction bs generalizing a m with
  | nil => exact .inr h
  | cons b bs ih =>
    rcases ih h with h | h
    · simp only [List.length_cons]; omega
    · rcases mem_memSet h with ⟨rfl, -⟩ | h
      · simp
      · exact .inr h

@[simp] theorem slotBytes_length (e : Bool) (v : Word) : (slotBytes e v).length = 8 := by
  cases e <;> rfl

theorem storeSlot_wf (e : Bool) (off : Nat) (v : Word) {m : Memory} (h : m.wf) : (storeSlot e off v m).wf :=
  memStore_wf off _ h

/-- A slot store leaves every byte outside its eight alone. -/
theorem memGet_storeSlot_outside (e : Bool) (off : Nat) (v : Word) (m : Memory) {k : Nat} (hk : k < off ∨ off + 8 ≤ k) :
    memGet (storeSlot e off v m) k = memGet m k :=
  memGet_memStore_outside off _ m (by simpa using hk)

theorem mem_storeSlot {e : Bool} {off : Nat} {v : Word} {m : Memory} {c : Host.Cell} (h : c ∈ storeSlot e off v m) :
    (off ≤ c.1 ∧ c.1 < off + 8) ∨ c ∈ m := by
  simpa using mem_memStore h

/-- The bytes of a 64-bit value put together again. -/
theorem wordOfSlot_byteOf (v : Word) :
    wordOfSlot (byteOf v 7) (byteOf v 6) (byteOf v 5) (byteOf v 4) (byteOf v 3) (byteOf v 2) (byteOf v 1) (byteOf v 0) = v := by
  simp only [wordOfSlot, byteOf, Nat.reduceMul]
  have join {a b n k : Nat} (h : b = a + k) : v.extractLsb' b n ++ v.extractLsb' a k = v.extractLsb' a (n + k) :=
    BitVec.extractLsb'_append_extractLsb'_eq_extractLsb' h
  rw [join (show 56 = 48 + 8 from rfl), join (show 48 = 40 + 8 from rfl), join (show 40 = 32 + 8 from rfl),
    join (show 32 = 24 + 8 from rfl), join (show 24 = 16 + 8 from rfl), join (show 16 = 8 + 8 from rfl),
    join (show 8 = 0 + 8 from rfl)]
  simp

/-- A slot reads back what was stored in it, in either byte order. -/
theorem loadSlot_storeSlot (e : Bool) (off : Nat) (v : Word) {m : Memory} (h : m.wf) :
    loadSlot e off (storeSlot e off v m) = v := by
  have hb : ∀ k (hk : k < 8), memGet (storeSlot e off v m) (off + k) = (slotBytes e v)[k]'(by simpa using hk) :=
    fun k hk => memGet_memStore_inside off _ h k (by simpa using hk)
  have h0 := hb 0 (by omega)
  rw [Nat.add_zero] at h0
  conv_rhs => rw [← wordOfSlot_byteOf v]
  cases e <;> simp [loadSlot, hb, h0] <;> simp [slotBytes]

/-- A slot is unaffected by a store to a slot that does not meet it. -/
theorem loadSlot_storeSlot_of_disjoint (e : Bool) (off off' : Nat) (v : Word) (m : Memory)
    (h : off + 8 ≤ off' ∨ off' + 8 ≤ off) : loadSlot e off (storeSlot e off' v m) = loadSlot e off m := by
  have hb : ∀ k, k < 8 → memGet (storeSlot e off' v m) (off + k) = memGet m (off + k) :=
    fun k hk => memGet_storeSlot_outside e off' v m (by omega)
  have h0 := hb 0 (by omega)
  rw [Nat.add_zero] at h0
  cases e <;> simp [loadSlot, hb, h0]

end Sys2Proof.Machine
end

