-- ==== Sys2Proof/Laws/State.lean ====
section
/-! SUPPORT. One lemma per field per update of `State`, so that no proof unfolds a record update. -/

namespace Sys2Proof.Machine.State

section
variable (s : State) (v : Vector Word 4)
@[simp] theorem setAp0r_cfg : (s.setAp0r v).cfg = s.cfg := rfl
@[simp] theorem setAp0r_ap0r : (s.setAp0r v).ap0r = v := rfl
@[simp] theorem setAp0r_x : (s.setAp0r v).x = s.x := rfl
@[simp] theorem setAp0r_pc : (s.setAp0r v).pc = s.pc := rfl
@[simp] theorem setAp0r_pstate : (s.setAp0r v).pstate = s.pstate := rfl
@[simp] theorem setAp0r_el2Enabled : (s.setAp0r v).el2Enabled = s.el2Enabled := rfl
@[simp] theorem setAp0r_nv : (s.setAp0r v).nv = s.nv := rfl
@[simp] theorem setAp0r_nv2 : (s.setAp0r v).nv2 = s.nv2 := rfl
@[simp] theorem setAp0r_tge : (s.setAp0r v).tge = s.tge := rfl
@[simp] theorem setAp0r_sreEL2 : (s.setAp0r v).sreEL2 = s.sreEL2 := rfl
@[simp] theorem setAp0r_sreEL3 : (s.setAp0r v).sreEL3 = s.sreEL3 := rfl
@[simp] theorem setAp0r_bank1 : (s.setAp0r v).bank1 = s.bank1 := rfl
@[simp] theorem setAp0r_bank2 : (s.setAp0r v).bank2 = s.bank2 := rfl
@[simp] theorem setAp0r_bank3 : (s.setAp0r v).bank3 = s.bank3 := rfl
@[simp] theorem setAp0r_ap1r : (s.setAp0r v).ap1r = s.ap1r := rfl
@[simp] theorem setAp0r_legacyVM : (s.setAp0r v).legacyVM = s.legacyVM := rfl
@[simp] theorem setAp0r_vcpuifEnabled : (s.setAp0r v).vcpuifEnabled = s.vcpuifEnabled := rfl
@[simp] theorem setAp0r_nvMemFaulting : (s.setAp0r v).nvMemFaulting = s.nvMemFaulting := rfl
@[simp] theorem setAp0r_nvmem : (s.setAp0r v).nvmem = s.nvmem := rfl
@[simp] theorem setAp0r_text : (s.setAp0r v).text = s.text := rfl
@[simp] theorem setAp0r_marks : (s.setAp0r v).marks = s.marks := rfl
@[simp] theorem setAp0r_lastRead : (s.setAp0r v).lastRead = s.lastRead := rfl
@[simp] theorem setAp0r_ap1rWritten : (s.setAp0r v).ap1rWritten = s.ap1rWritten := rfl
@[simp] theorem setAp0r_turns : (s.setAp0r v).turns = s.turns := rfl
end

section
variable (s : State) (v : Vector Word 31)
@[simp] theorem setXs_cfg : (s.setXs v).cfg = s.cfg := rfl
@[simp] theorem setXs_ap0r : (s.setXs v).ap0r = s.ap0r := rfl
@[simp] theorem setXs_x : (s.setXs v).x = v := rfl
@[simp] theorem setXs_pc : (s.setXs v).pc = s.pc := rfl
@[simp] theorem setXs_pstate : (s.setXs v).pstate = s.pstate := rfl
@[simp] theorem setXs_el2Enabled : (s.setXs v).el2Enabled = s.el2Enabled := rfl
@[simp] theorem setXs_nv : (s.setXs v).nv = s.nv := rfl
@[simp] theorem setXs_nv2 : (s.setXs v).nv2 = s.nv2 := rfl
@[simp] theorem setXs_tge : (s.setXs v).tge = s.tge := rfl
@[simp] theorem setXs_sreEL2 : (s.setXs v).sreEL2 = s.sreEL2 := rfl
@[simp] theorem setXs_sreEL3 : (s.setXs v).sreEL3 = s.sreEL3 := rfl
@[simp] theorem setXs_bank1 : (s.setXs v).bank1 = s.bank1 := rfl
@[simp] theorem setXs_bank2 : (s.setXs v).bank2 = s.bank2 := rfl
@[simp] theorem setXs_bank3 : (s.setXs v).bank3 = s.bank3 := rfl
@[simp] theorem setXs_ap1r : (s.setXs v).ap1r = s.ap1r := rfl
@[simp] theorem setXs_legacyVM : (s.setXs v).legacyVM = s.legacyVM := rfl
@[simp] theorem setXs_vcpuifEnabled : (s.setXs v).vcpuifEnabled = s.vcpuifEnabled := rfl
@[simp] theorem setXs_nvMemFaulting : (s.setXs v).nvMemFaulting = s.nvMemFaulting := rfl
@[simp] theorem setXs_nvmem : (s.setXs v).nvmem = s.nvmem := rfl
@[simp] theorem setXs_text : (s.setXs v).text = s.text := rfl
@[simp] theorem setXs_marks : (s.setXs v).marks = s.marks := rfl
@[simp] theorem setXs_lastRead : (s.setXs v).lastRead = s.lastRead := rfl
@[simp] theorem setXs_ap1rWritten : (s.setXs v).ap1rWritten = s.ap1rWritten := rfl
@[simp] theorem setXs_turns : (s.setXs v).turns = s.turns := rfl
end

section
variable (s : State) (v : Word)
@[simp] theorem setPc_cfg : (s.setPc v).cfg = s.cfg := rfl
@[simp] theorem setPc_ap0r : (s.setPc v).ap0r = s.ap0r := rfl
@[simp] theorem setPc_x : (s.setPc v).x = s.x := rfl
@[simp] theorem setPc_pc : (s.setPc v).pc = v := rfl
@[simp] theorem setPc_pstate : (s.setPc v).pstate = s.pstate := rfl
@[simp] theorem setPc_el2Enabled : (s.setPc v).el2Enabled = s.el2Enabled := rfl
@[simp] theorem setPc_nv : (s.setPc v).nv = s.nv := rfl
@[simp] theorem setPc_nv2 : (s.setPc v).nv2 = s.nv2 := rfl
@[simp] theorem setPc_tge : (s.setPc v).tge = s.tge := rfl
@[simp] theorem setPc_sreEL2 : (s.setPc v).sreEL2 = s.sreEL2 := rfl
@[simp] theorem setPc_sreEL3 : (s.setPc v).sreEL3 = s.sreEL3 := rfl
@[simp] theorem setPc_bank1 : (s.setPc v).bank1 = s.bank1 := rfl
@[simp] theorem setPc_bank2 : (s.setPc v).bank2 = s.bank2 := rfl
@[simp] theorem setPc_bank3 : (s.setPc v).bank3 = s.bank3 := rfl
@[simp] theorem setPc_ap1r : (s.setPc v).ap1r = s.ap1r := rfl
@[simp] theorem setPc_legacyVM : (s.setPc v).legacyVM = s.legacyVM := rfl
@[simp] theorem setPc_vcpuifEnabled : (s.setPc v).vcpuifEnabled = s.vcpuifEnabled := rfl
@[simp] theorem setPc_nvMemFaulting : (s.setPc v).nvMemFaulting = s.nvMemFaulting := rfl
@[simp] theorem setPc_nvmem : (s.setPc v).nvmem = s.nvmem := rfl
@[simp] theorem setPc_text : (s.setPc v).text = s.text := rfl
@[simp] theorem setPc_marks : (s.setPc v).marks = s.marks := rfl
@[simp] theorem setPc_lastRead : (s.setPc v).lastRead = s.lastRead := rfl
@[simp] theorem setPc_ap1rWritten : (s.setPc v).ap1rWritten = s.ap1rWritten := rfl
@[simp] theorem setPc_turns : (s.setPc v).turns = s.turns := rfl
end

section
variable (s : State) (v : PState)
@[simp] theorem setPState_cfg : (s.setPState v).cfg = s.cfg := rfl
@[simp] theorem setPState_ap0r : (s.setPState v).ap0r = s.ap0r := rfl
@[simp] theorem setPState_x : (s.setPState v).x = s.x := rfl
@[simp] theorem setPState_pc : (s.setPState v).pc = s.pc := rfl
@[simp] theorem setPState_pstate : (s.setPState v).pstate = v := rfl
@[simp] theorem setPState_el2Enabled : (s.setPState v).el2Enabled = s.el2Enabled := rfl
@[simp] theorem setPState_nv : (s.setPState v).nv = s.nv := rfl
@[simp] theorem setPState_nv2 : (s.setPState v).nv2 = s.nv2 := rfl
@[simp] theorem setPState_tge : (s.setPState v).tge = s.tge := rfl
@[simp] theorem setPState_sreEL2 : (s.setPState v).sreEL2 = s.sreEL2 := rfl
@[simp] theorem setPState_sreEL3 : (s.setPState v).sreEL3 = s.sreEL3 := rfl
@[simp] theorem setPState_bank1 : (s.setPState v).bank1 = s.bank1 := rfl
@[simp] theorem setPState_bank2 : (s.setPState v).bank2 = s.bank2 := rfl
@[simp] theorem setPState_bank3 : (s.setPState v).bank3 = s.bank3 := rfl
@[simp] theorem setPState_ap1r : (s.setPState v).ap1r = s.ap1r := rfl
@[simp] theorem setPState_legacyVM : (s.setPState v).legacyVM = s.legacyVM := rfl
@[simp] theorem setPState_vcpuifEnabled : (s.setPState v).vcpuifEnabled = s.vcpuifEnabled := rfl
@[simp] theorem setPState_nvMemFaulting : (s.setPState v).nvMemFaulting = s.nvMemFaulting := rfl
@[simp] theorem setPState_nvmem : (s.setPState v).nvmem = s.nvmem := rfl
@[simp] theorem setPState_text : (s.setPState v).text = s.text := rfl
@[simp] theorem setPState_marks : (s.setPState v).marks = s.marks := rfl
@[simp] theorem setPState_lastRead : (s.setPState v).lastRead = s.lastRead := rfl
@[simp] theorem setPState_ap1rWritten : (s.setPState v).ap1rWritten = s.ap1rWritten := rfl
@[simp] theorem setPState_turns : (s.setPState v).turns = s.turns := rfl
end

section
variable (s : State) (v : Vector Word 4)
@[simp] theorem setAp1r_cfg : (s.setAp1r v).cfg = s.cfg := rfl
@[simp] theorem setAp1r_ap0r : (s.setAp1r v).ap0r = s.ap0r := rfl
@[simp] theorem setAp1r_x : (s.setAp1r v).x = s.x := rfl
@[simp] theorem setAp1r_pc : (s.setAp1r v).pc = s.pc := rfl
@[simp] theorem setAp1r_pstate : (s.setAp1r v).pstate = s.pstate := rfl
@[simp] theorem setAp1r_el2Enabled : (s.setAp1r v).el2Enabled = s.el2Enabled := rfl
@[simp] theorem setAp1r_nv : (s.setAp1r v).nv = s.nv := rfl
@[simp] theorem setAp1r_nv2 : (s.setAp1r v).nv2 = s.nv2 := rfl
@[simp] theorem setAp1r_tge : (s.setAp1r v).tge = s.tge := rfl
@[simp] theorem setAp1r_sreEL2 : (s.setAp1r v).sreEL2 = s.sreEL2 := rfl
@[simp] theorem setAp1r_sreEL3 : (s.setAp1r v).sreEL3 = s.sreEL3 := rfl
@[simp] theorem setAp1r_bank1 : (s.setAp1r v).bank1 = s.bank1 := rfl
@[simp] theorem setAp1r_bank2 : (s.setAp1r v).bank2 = s.bank2 := rfl
@[simp] theorem setAp1r_bank3 : (s.setAp1r v).bank3 = s.bank3 := rfl
@[simp] theorem setAp1r_ap1r : (s.setAp1r v).ap1r = v := rfl
@[simp] theorem setAp1r_legacyVM : (s.setAp1r v).legacyVM = s.legacyVM := rfl
@[simp] theorem setAp1r_vcpuifEnabled : (s.setAp1r v).vcpuifEnabled = s.vcpuifEnabled := rfl
@[simp] theorem setAp1r_nvMemFaulting : (s.setAp1r v).nvMemFaulting = s.nvMemFaulting := rfl
@[simp] theorem setAp1r_nvmem : (s.setAp1r v).nvmem = s.nvmem := rfl
@[simp] theorem setAp1r_text : (s.setAp1r v).text = s.text := rfl
@[simp] theorem setAp1r_marks : (s.setAp1r v).marks = s.marks := rfl
@[simp] theorem setAp1r_lastRead : (s.setAp1r v).lastRead = s.lastRead := rfl
@[simp] theorem setAp1r_ap1rWritten : (s.setAp1r v).ap1rWritten = s.ap1rWritten := rfl
@[simp] theorem setAp1r_turns : (s.setAp1r v).turns = s.turns := rfl
end

section
variable (s : State) (v : Memory)
@[simp] theorem setNvmem_cfg : (s.setNvmem v).cfg = s.cfg := rfl
@[simp] theorem setNvmem_ap0r : (s.setNvmem v).ap0r = s.ap0r := rfl
@[simp] theorem setNvmem_x : (s.setNvmem v).x = s.x := rfl
@[simp] theorem setNvmem_pc : (s.setNvmem v).pc = s.pc := rfl
@[simp] theorem setNvmem_pstate : (s.setNvmem v).pstate = s.pstate := rfl
@[simp] theorem setNvmem_el2Enabled : (s.setNvmem v).el2Enabled = s.el2Enabled := rfl
@[simp] theorem setNvmem_nv : (s.setNvmem v).nv = s.nv := rfl
@[simp] theorem setNvmem_nv2 : (s.setNvmem v).nv2 = s.nv2 := rfl
@[simp] theorem setNvmem_tge : (s.setNvmem v).tge = s.tge := rfl
@[simp] theorem setNvmem_sreEL2 : (s.setNvmem v).sreEL2 = s.sreEL2 := rfl
@[simp] theorem setNvmem_sreEL3 : (s.setNvmem v).sreEL3 = s.sreEL3 := rfl
@[simp] theorem setNvmem_bank1 : (s.setNvmem v).bank1 = s.bank1 := rfl
@[simp] theorem setNvmem_bank2 : (s.setNvmem v).bank2 = s.bank2 := rfl
@[simp] theorem setNvmem_bank3 : (s.setNvmem v).bank3 = s.bank3 := rfl
@[simp] theorem setNvmem_ap1r : (s.setNvmem v).ap1r = s.ap1r := rfl
@[simp] theorem setNvmem_legacyVM : (s.setNvmem v).legacyVM = s.legacyVM := rfl
@[simp] theorem setNvmem_vcpuifEnabled : (s.setNvmem v).vcpuifEnabled = s.vcpuifEnabled := rfl
@[simp] theorem setNvmem_nvMemFaulting : (s.setNvmem v).nvMemFaulting = s.nvMemFaulting := rfl
@[simp] theorem setNvmem_nvmem : (s.setNvmem v).nvmem = v := rfl
@[simp] theorem setNvmem_text : (s.setNvmem v).text = s.text := rfl
@[simp] theorem setNvmem_marks : (s.setNvmem v).marks = s.marks := rfl
@[simp] theorem setNvmem_lastRead : (s.setNvmem v).lastRead = s.lastRead := rfl
@[simp] theorem setNvmem_ap1rWritten : (s.setNvmem v).ap1rWritten = s.ap1rWritten := rfl
@[simp] theorem setNvmem_turns : (s.setNvmem v).turns = s.turns := rfl
end

section
variable (s : State) (v : Marks)
@[simp] theorem setMarks_cfg : (s.setMarks v).cfg = s.cfg := rfl
@[simp] theorem setMarks_ap0r : (s.setMarks v).ap0r = s.ap0r := rfl
@[simp] theorem setMarks_x : (s.setMarks v).x = s.x := rfl
@[simp] theorem setMarks_pc : (s.setMarks v).pc = s.pc := rfl
@[simp] theorem setMarks_pstate : (s.setMarks v).pstate = s.pstate := rfl
@[simp] theorem setMarks_el2Enabled : (s.setMarks v).el2Enabled = s.el2Enabled := rfl
@[simp] theorem setMarks_nv : (s.setMarks v).nv = s.nv := rfl
@[simp] theorem setMarks_nv2 : (s.setMarks v).nv2 = s.nv2 := rfl
@[simp] theorem setMarks_tge : (s.setMarks v).tge = s.tge := rfl
@[simp] theorem setMarks_sreEL2 : (s.setMarks v).sreEL2 = s.sreEL2 := rfl
@[simp] theorem setMarks_sreEL3 : (s.setMarks v).sreEL3 = s.sreEL3 := rfl
@[simp] theorem setMarks_bank1 : (s.setMarks v).bank1 = s.bank1 := rfl
@[simp] theorem setMarks_bank2 : (s.setMarks v).bank2 = s.bank2 := rfl
@[simp] theorem setMarks_bank3 : (s.setMarks v).bank3 = s.bank3 := rfl
@[simp] theorem setMarks_ap1r : (s.setMarks v).ap1r = s.ap1r := rfl
@[simp] theorem setMarks_legacyVM : (s.setMarks v).legacyVM = s.legacyVM := rfl
@[simp] theorem setMarks_vcpuifEnabled : (s.setMarks v).vcpuifEnabled = s.vcpuifEnabled := rfl
@[simp] theorem setMarks_nvMemFaulting : (s.setMarks v).nvMemFaulting = s.nvMemFaulting := rfl
@[simp] theorem setMarks_nvmem : (s.setMarks v).nvmem = s.nvmem := rfl
@[simp] theorem setMarks_text : (s.setMarks v).text = s.text := rfl
@[simp] theorem setMarks_marks : (s.setMarks v).marks = v := rfl
@[simp] theorem setMarks_lastRead : (s.setMarks v).lastRead = s.lastRead := rfl
@[simp] theorem setMarks_ap1rWritten : (s.setMarks v).ap1rWritten = s.ap1rWritten := rfl
@[simp] theorem setMarks_turns : (s.setMarks v).turns = s.turns := rfl
end

section
variable (s : State) (v : Vector (Option Word) 4)
@[simp] theorem setLastReads_cfg : (s.setLastReads v).cfg = s.cfg := rfl
@[simp] theorem setLastReads_ap0r : (s.setLastReads v).ap0r = s.ap0r := rfl
@[simp] theorem setLastReads_x : (s.setLastReads v).x = s.x := rfl
@[simp] theorem setLastReads_pc : (s.setLastReads v).pc = s.pc := rfl
@[simp] theorem setLastReads_pstate : (s.setLastReads v).pstate = s.pstate := rfl
@[simp] theorem setLastReads_el2Enabled : (s.setLastReads v).el2Enabled = s.el2Enabled := rfl
@[simp] theorem setLastReads_nv : (s.setLastReads v).nv = s.nv := rfl
@[simp] theorem setLastReads_nv2 : (s.setLastReads v).nv2 = s.nv2 := rfl
@[simp] theorem setLastReads_tge : (s.setLastReads v).tge = s.tge := rfl
@[simp] theorem setLastReads_sreEL2 : (s.setLastReads v).sreEL2 = s.sreEL2 := rfl
@[simp] theorem setLastReads_sreEL3 : (s.setLastReads v).sreEL3 = s.sreEL3 := rfl
@[simp] theorem setLastReads_bank1 : (s.setLastReads v).bank1 = s.bank1 := rfl
@[simp] theorem setLastReads_bank2 : (s.setLastReads v).bank2 = s.bank2 := rfl
@[simp] theorem setLastReads_bank3 : (s.setLastReads v).bank3 = s.bank3 := rfl
@[simp] theorem setLastReads_ap1r : (s.setLastReads v).ap1r = s.ap1r := rfl
@[simp] theorem setLastReads_legacyVM : (s.setLastReads v).legacyVM = s.legacyVM := rfl
@[simp] theorem setLastReads_vcpuifEnabled : (s.setLastReads v).vcpuifEnabled = s.vcpuifEnabled := rfl
@[simp] theorem setLastReads_nvMemFaulting : (s.setLastReads v).nvMemFaulting = s.nvMemFaulting := rfl
@[simp] theorem setLastReads_nvmem : (s.setLastReads v).nvmem = s.nvmem := rfl
@[simp] theorem setLastReads_text : (s.setLastReads v).text = s.text := rfl
@[simp] theorem setLastReads_marks : (s.setLastReads v).marks = s.marks := rfl
@[simp] theorem setLastReads_lastRead : (s.setLastReads v).lastRead = v := rfl
@[simp] theorem setLastReads_ap1rWritten : (s.setLastReads v).ap1rWritten = s.ap1rWritten := rfl
@[simp] theorem setLastReads_turns : (s.setLastReads v).turns = s.turns := rfl
end

section
variable (s : State) (v : List Turn)
@[simp] theorem setTurns_cfg : (s.setTurns v).cfg = s.cfg := rfl
@[simp] theorem setTurns_ap0r : (s.setTurns v).ap0r = s.ap0r := rfl
@[simp] theorem setTurns_x : (s.setTurns v).x = s.x := rfl
@[simp] theorem setTurns_pc : (s.setTurns v).pc = s.pc := rfl
@[simp] theorem setTurns_pstate : (s.setTurns v).pstate = s.pstate := rfl
@[simp] theorem setTurns_el2Enabled : (s.setTurns v).el2Enabled = s.el2Enabled := rfl
@[simp] theorem setTurns_nv : (s.setTurns v).nv = s.nv := rfl
@[simp] theorem setTurns_nv2 : (s.setTurns v).nv2 = s.nv2 := rfl
@[simp] theorem setTurns_tge : (s.setTurns v).tge = s.tge := rfl
@[simp] theorem setTurns_sreEL2 : (s.setTurns v).sreEL2 = s.sreEL2 := rfl
@[simp] theorem setTurns_sreEL3 : (s.setTurns v).sreEL3 = s.sreEL3 := rfl
@[simp] theorem setTurns_bank1 : (s.setTurns v).bank1 = s.bank1 := rfl
@[simp] theorem setTurns_bank2 : (s.setTurns v).bank2 = s.bank2 := rfl
@[simp] theorem setTurns_bank3 : (s.setTurns v).bank3 = s.bank3 := rfl
@[simp] theorem setTurns_ap1r : (s.setTurns v).ap1r = s.ap1r := rfl
@[simp] theorem setTurns_legacyVM : (s.setTurns v).legacyVM = s.legacyVM := rfl
@[simp] theorem setTurns_vcpuifEnabled : (s.setTurns v).vcpuifEnabled = s.vcpuifEnabled := rfl
@[simp] theorem setTurns_nvMemFaulting : (s.setTurns v).nvMemFaulting = s.nvMemFaulting := rfl
@[simp] theorem setTurns_nvmem : (s.setTurns v).nvmem = s.nvmem := rfl
@[simp] theorem setTurns_text : (s.setTurns v).text = s.text := rfl
@[simp] theorem setTurns_marks : (s.setTurns v).marks = s.marks := rfl
@[simp] theorem setTurns_lastRead : (s.setTurns v).lastRead = s.lastRead := rfl
@[simp] theorem setTurns_ap1rWritten : (s.setTurns v).ap1rWritten = s.ap1rWritten := rfl
@[simp] theorem setTurns_turns : (s.setTurns v).turns = v := rfl
end

end Sys2Proof.Machine.State
end

