-- ==== Sys2Proof/Laws/Registers.lean ====
section
/-! SUPPORT. The laws of the register operations: what each reads after a write, and what each leaves alone. -/

namespace Sys2Proof.Machine

@[simp] theorem lowHalf_keepLow (v : Word) : lowHalf (keepLow v) = lowHalf v := by
  simp [lowHalf, keepLow, BitVec.extractLsb'_setWidth_of_le]

@[simp] theorem highHalf_keepLow (v : Word) : highHalf (keepLow v) = 0 := by
  apply BitVec.eq_of_getLsbD_eq
  intro i hi
  simp [highHalf, keepLow, lowHalf]

/-- Bit by bit, `keepLow` keeps the bits below 32. -/
theorem getLsbD_keepLow (v : Word) (i : Nat) : (keepLow v).getLsbD i = (decide (i < 32) && v.getLsbD i) := by
  simp only [keepLow, lowHalf, BitVec.getLsbD_setWidth, BitVec.getLsbD_extractLsb', Nat.zero_add]
  by_cases h : i < 32
  · simp [h]; omega
  · simp [h]

@[simp] theorem keepLow_keepLow (v : Word) : keepLow (keepLow v) = keepLow v := by
  unfold keepLow; rw [show lowHalf ((lowHalf v).setWidth 64) = lowHalf v from lowHalf_keepLow v]

/-- A value with bits [63:32] zero is kept whole. -/
theorem keepLow_of_highHalf {v : Word} (h : highHalf v = 0) : keepLow v = v := by
  apply BitVec.eq_of_getLsbD_eq
  intro i hi
  rw [getLsbD_keepLow]
  by_cases hlt : i < 32
  · simp [hlt]
  · have := congrArg (fun b => b.getLsbD (i - 32)) h
    simp only [highHalf, BitVec.getLsbD_extractLsb'] at this
    rw [show 32 + (i - 32) = i by omega] at this
    simp [show i - 32 < 32 by omega] at this
    simp [this]

@[simp] theorem keepLow_zero : keepLow 0 = 0 := rfl

theorem keepLow_eq_zero_iff (v : Word) : keepLow v = 0 ↔ lowHalf v = 0 := by
  constructor
  · intro h; rw [← lowHalf_keepLow, h]; rfl
  · intro h; simp [keepLow, h]

/-- `AP0R` after a write: the register written keeps the low half, the others are unchanged. -/
theorem ap0r_setAp0r (m n : Fin 4) (v : Word) (s : State) :
    ap0r n (setAp0r m v s) = if n = m then keepLow v else ap0r n s := by
  by_cases h : n = m
  · subst h; simp [ap0r, setAp0r]
  · simp [ap0r, setAp0r, h, Fin.val_inj, Ne.symm h]

/-- The stored register after a write. -/
theorem getElem_setAp0r (m n : Fin 4) (v : Word) (s : State) :
    (setAp0r m v s).ap0r[n] = if n = m then keepLow v else s.ap0r[n] := by
  by_cases h : n = m
  · subst h; simp [setAp0r]
  · simp [setAp0r, h, Fin.val_inj, Ne.symm h]

theorem setAp0r_frame (m : Fin 4) (v : Word) (s : State) :
    setAp0r m v s = { s with ap0r := (setAp0r m v s).ap0r } := rfl

theorem ap1r_setAp1r (m n : Fin 4) (v : Word) (s : State) :
    ap1r n (setAp1r m v s) = if n = m then v else ap1r n s := by
  by_cases h : n = m
  · subst h; simp [ap1r, setAp1r]
  · simp [ap1r, setAp1r, h, Fin.val_inj, Ne.symm h]

/-- `last_read` after a read of register `m`. -/
theorem getElem_setLastRead (m n : Fin 4) (v : Word) (s : State) :
    (setLastRead m v s).lastRead[n] = if n = m then some v else s.lastRead[n] := by
  by_cases h : n = m
  · subst h; simp [setLastRead]
  · simp [setLastRead, h, Fin.val_inj, Ne.symm h]

/-- A write of `x[t]` changes the field `x` only. -/
theorem writeX_frame (t : Nat) (v : Word) (s : State) :
    writeX t v s = { s with x := if h : t < 31 then s.x.set t v else s.x } := by
  unfold writeX; split <;> rfl

/-- `x[k]` after a write of `x[t]`: a write to `XZR` is discarded (R32). -/
theorem readX_writeX (t k : Nat) (v : Word) (s : State) :
    readX k (writeX t v s) = if k = t ∧ t < 31 then v else readX k s := by
  rw [writeX_frame]
  unfold readX
  by_cases ht : t < 31 <;> by_cases hk : k < 31 <;> simp [ht, hk]
  · rw [Vector.getElem_set]; simp [eq_comm]
  · omega

/-- A store to a slot changes the field `nvmem` only. -/
theorem nvMemWrite_frame (off : Nat) (v : Word) (s : State) :
    nvMemWrite off v s = { s with nvmem := (nvMemWrite off v s).nvmem } := rfl

theorem nvMemRead_nvMemWrite (off : Nat) (v : Word) {s : State} (h : s.nvmem.wf) :
    nvMemRead off (nvMemWrite off v s) = v :=
  loadSlot_storeSlot _ _ _ h

/-- The slots of different registers do not meet (R50). -/
theorem nvMemOffset_disjoint {m n : Fin 4} (h : n ≠ m) :
    nvMemOffset n + 8 ≤ nvMemOffset m ∨ nvMemOffset m + 8 ≤ nvMemOffset n := by
  have : n.val ≠ m.val := fun e => h (Fin.ext e)
  unfold nvMemOffset; omega

theorem nvMemRead_nvMemWrite_other {m n : Fin 4} (hn : n ≠ m) (v : Word) (s : State) :
    nvMemRead (nvMemOffset n) (nvMemWrite (nvMemOffset m) v s) = nvMemRead (nvMemOffset n) s :=
  loadSlot_storeSlot_of_disjoint _ _ _ _ _ (nvMemOffset_disjoint hn)

/-- A register's slot lies in the window (R50). -/
theorem nvMemOffset_range (m : Fin 4) : 0x480 ≤ nvMemOffset m ∧ nvMemOffset m + 8 ≤ 0x4A0 := by
  unfold nvMemOffset; omega

@[simp] theorem bank_setBank (l k : ELx) (b : ExcBank) (s : State) :
    bank k (setBank l b s) = if k = l then b else bank k s := by
  cases l <;> cases k <;> rfl

/-- Writing a level's exception registers changes those alone. -/
theorem setBank_frame (l : ELx) (b : ExcBank) (s : State) :
    ∃ b1 b2 b3, setBank l b s = { s with bank1 := b1, bank2 := b2, bank3 := b3 } := by
  cases l <;> exact ⟨_, _, _, rfl⟩

end Sys2Proof.Machine
end

