-- ==== Sys2Proof/Laws/Access.lean ====
section
/-! SUPPORT. What the access checks decide, and what each accessor does in each case. -/

namespace Sys2Proof.Machine

/-- A register that does not exist: tests (0), (1) and (2) of R90. -/
theorem accessCheck_of_absent {m : Fin 4} {s : State} (h : ¬RegExists m s) : accessCheck m s = .undefined := by
  unfold accessCheck
  unfold RegExists at h
  cases hp : s.cfg.present
  · simp
  · rw [hp] at h
    unfold Config.implemented at h
    fin_cases m <;> cases hb : s.cfg.pre <;> simp_all [Pre.bits]

/-- A register that exists: the sub-chain of the current level decides. -/
theorem accessCheck_of_exists {m : Fin 4} {s : State} (h : RegExists m s) :
    accessCheck m s = match s.pstate.el with
      | .el0 => .undefined
      | .el1 => checkEL1 s
      | .el2 => if s.sreEL2 then .direct else .trap .el2
      | .el3 => if s.sreEL3 then .direct else .trap .el3 := by
  unfold accessCheck
  obtain ⟨hp, hi⟩ := h
  unfold Config.implemented at hi
  fin_cases m <;> cases hb : s.cfg.pre <;> cases hl : s.pstate.el <;> simp_all [Pre.bits]

theorem accessCheck_eq_direct (m : Fin 4) (s : State) : accessCheck m s = .direct ↔ DirectAccess m s := by
  by_cases h : RegExists m s
  · have hx : RegExists m s ↔ True := iff_true_intro h
    rw [accessCheck_of_exists h]
    unfold DirectAccess checkEL1
    cases s.pstate.el <;> cases s.el2Enabled <;> cases s.nv <;> cases s.nv2 <;> cases s.sreEL2 <;> cases s.sreEL3 <;>
      simp [hx]
  · rw [accessCheck_of_absent h]
    simp only [DirectAccess, h, false_and, iff_false]
    exact nofun

theorem accessCheck_eq_nvMem (m : Fin 4) (s : State) : accessCheck m s = .nvMem ↔ RedirectedAccess m s := by
  by_cases h : RegExists m s
  · have hx : RegExists m s ↔ True := iff_true_intro h
    rw [accessCheck_of_exists h]
    unfold RedirectedAccess checkEL1
    cases s.pstate.el <;> cases s.el2Enabled <;> cases s.nv <;> cases s.nv2 <;> cases s.sreEL2 <;> cases s.sreEL3 <;>
      simp [hx]
  · rw [accessCheck_of_absent h]
    simp only [RedirectedAccess, h, false_and, iff_false]
    exact nofun

/-- The traps X6, X7 and X8 of R112. -/
theorem accessCheck_eq_trap (m : Fin 4) (target : ELx) (s : State) :
    accessCheck m s = .trap target ↔ RegExists m s ∧
      ((target = .el2 ∧ s.pstate.el = .el1 ∧ s.el2Enabled = true ∧ s.nv = true ∧ s.nv2 = false) ∨
       (target = .el2 ∧ s.pstate.el = .el2 ∧ s.sreEL2 = false) ∨
       (target = .el3 ∧ s.pstate.el = .el3 ∧ s.sreEL3 = false)) := by
  by_cases h : RegExists m s
  · have hx : RegExists m s ↔ True := iff_true_intro h
    rw [accessCheck_of_exists h]
    unfold checkEL1
    cases s.pstate.el <;> cases target <;> cases s.el2Enabled <;> cases s.nv <;> cases s.nv2 <;> cases s.sreEL2 <;>
      cases s.sreEL3 <;>
      simp [hx]
  · rw [accessCheck_of_absent h]
    simp only [h, false_and, iff_false]
    exact nofun

/-- X1 to X5 of R112. -/
theorem accessCheck_eq_undefined (m : Fin 4) (s : State) :
    accessCheck m s = .undefined ↔
      ¬RegExists m s ∨ s.pstate.el = .el0 ∨ (s.pstate.el = .el1 ∧ ¬(s.el2Enabled = true ∧ s.nv = true)) := by
  by_cases h : RegExists m s
  · have hx : RegExists m s ↔ True := iff_true_intro h
    rw [accessCheck_of_exists h]
    unfold checkEL1
    cases s.pstate.el <;> cases s.el2Enabled <;> cases s.nv <;> cases s.nv2 <;> cases s.sreEL2 <;> cases s.sreEL3 <;>
      simp [hx]
  · rw [accessCheck_of_absent h]
    simp [h]

theorem exec_read (m : Fin 4) (t : Nat) (s : State) : exec (.accessor .read m t) s = readAP0R m t s := by
  fin_cases m <;> rfl

theorem exec_write (m : Fin 4) (t : Nat) (s : State) : exec (.accessor .write m t) s = writeAP0R m t s := by
  fin_cases m <;> rfl

/-- Every instruction is the accessor of its own fields. -/
theorem accessor_fields (i : Instr) : Instr.accessor i.dir i.reg i.rt = i := by
  cases i <;> rfl

@[simp] theorem rt_accessor (d : Dir) (m : Fin 4) (t : Nat) : (Instr.accessor d m t).rt = t := by
  cases d <;> fin_cases m <;> rfl

@[simp] theorem dir_accessor (d : Dir) (m : Fin 4) (t : Nat) : (Instr.accessor d m t).dir = d := by
  cases d <;> fin_cases m <;> rfl

@[simp] theorem reg_accessor (d : Dir) (m : Fin 4) (t : Nat) : (Instr.accessor d m t).reg = m := by
  cases d <;> fin_cases m <;> rfl

/-- Everything a read accessor can answer. -/
theorem readAP0R_cases (m : Fin 4) (t : Nat) (s : State) :
    (accessCheck m s = .undefined ∧ readAP0R m t s = .fault (.undefined s.pc)) ∨
    (∃ target, accessCheck m s = .trap target ∧
      readAP0R m t s = .fault (.sysTrap target sysTrapCode s.pc (sysTrapEsr .read m t))) ∨
    (accessCheck m s = .nvMem ∧ nvMemAccessFaults s = true ∧ readAP0R m t s = .fault (.nvMemFault s.pc)) ∨
    (accessCheck m s = .nvMem ∧ nvMemAccessFaults s = false ∧ readAP0R m t s = .next (readRedirected m t s)) ∨
    (accessCheck m s = .direct ∧ readAP0R m t s = .next (readDirect m t s)) := by
  unfold readAP0R raiseUndefined raiseSysTrap raiseNvMemFault
  cases accessCheck m s <;> cases nvMemAccessFaults s <;> simp

/-- Everything a write accessor can answer. -/
theorem writeAP0R_cases (m : Fin 4) (t : Nat) (s : State) :
    (accessCheck m s = .undefined ∧ writeAP0R m t s = .fault (.undefined s.pc)) ∨
    (∃ target, accessCheck m s = .trap target ∧
      writeAP0R m t s = .fault (.sysTrap target sysTrapCode s.pc (sysTrapEsr .write m t))) ∨
    (accessCheck m s = .nvMem ∧ nvMemAccessFaults s = true ∧ writeAP0R m t s = .fault (.nvMemFault s.pc)) ∨
    (accessCheck m s = .nvMem ∧ nvMemAccessFaults s = false ∧ writeAP0R m t s = .next (writeRedirected m t s)) ∨
    (accessCheck m s = .direct ∧ writeAP0R m t s = .next (writeDirect m t s)) := by
  unfold writeAP0R raiseUndefined raiseSysTrap raiseNvMemFault
  cases accessCheck m s <;> cases nvMemAccessFaults s <;> simp

/-- Everything an instruction can answer: an accessor faults with one of its three outcomes, or answers one of four next
states. -/
theorem exec_next {i : Instr} {s u : State} (h : exec i s = .next u) :
    (i.dir = .read ∧ accessCheck i.reg s = .nvMem ∧ nvMemAccessFaults s = false ∧ u = readRedirected i.reg i.rt s) ∨
    (i.dir = .read ∧ accessCheck i.reg s = .direct ∧ u = readDirect i.reg i.rt s) ∨
    (i.dir = .write ∧ accessCheck i.reg s = .nvMem ∧ nvMemAccessFaults s = false ∧ u = writeRedirected i.reg i.rt s) ∨
    (i.dir = .write ∧ accessCheck i.reg s = .direct ∧ u = writeDirect i.reg i.rt s) := by
  rw [← accessor_fields i] at h
  cases hd : i.dir <;> rw [hd] at h
  · rw [exec_read] at h
    rcases readAP0R_cases i.reg i.rt s with ⟨_, e⟩ | ⟨_, _, e⟩ | ⟨_, _, e⟩ | ⟨a, f, e⟩ | ⟨a, e⟩ <;>
      rw [e] at h <;> simp at h <;> simp_all
  · rw [exec_write] at h
    rcases writeAP0R_cases i.reg i.rt s with ⟨_, e⟩ | ⟨_, _, e⟩ | ⟨_, _, e⟩ | ⟨a, f, e⟩ | ⟨a, e⟩ <;>
      rw [e] at h <;> simp at h <;> simp_all

/-- A read accessor that answers a next state read the slot or the register. -/
theorem exec_read_next {m : Fin 4} {t : Nat} {s u : State} (h : exec (.accessor .read m t) s = .next u) :
    (RedirectedAccess m s ∧ nvMemAccessFaults s = false ∧ u = readRedirected m t s) ∨
    (DirectAccess m s ∧ u = readDirect m t s) := by
  have := exec_next h
  simpa [accessCheck_eq_nvMem, accessCheck_eq_direct] using this

/-- A write accessor that answers a next state wrote the slot or the register. -/
theorem exec_write_next {m : Fin 4} {t : Nat} {s u : State} (h : exec (.accessor .write m t) s = .next u) :
    (RedirectedAccess m s ∧ nvMemAccessFaults s = false ∧ u = writeRedirected m t s) ∨
    (DirectAccess m s ∧ u = writeDirect m t s) := by
  have := exec_next h
  simpa [accessCheck_eq_nvMem, accessCheck_eq_direct] using this

/-- The faults an instruction can answer, with the check that led to each. -/
theorem exec_fault {i : Instr} {s : State} {f : Fault} (h : exec i s = .fault f) :
    (accessCheck i.reg s = .undefined ∧ f = .undefined s.pc) ∨
    (∃ target, accessCheck i.reg s = .trap target ∧ f = .sysTrap target sysTrapCode s.pc (sysTrapEsr i.dir i.reg i.rt)) ∨
    (accessCheck i.reg s = .nvMem ∧ f = .nvMemFault s.pc) := by
  rw [← accessor_fields i] at h
  cases hd : i.dir <;> rw [hd] at h
  · rw [exec_read] at h
    rcases readAP0R_cases i.reg i.rt s with ⟨_, e⟩ | ⟨_, _, e⟩ | ⟨_, _, e⟩ | ⟨a, f, e⟩ | ⟨a, e⟩ <;>
      rw [e] at h <;> simp at h <;> simp_all
  · rw [exec_write] at h
    rcases writeAP0R_cases i.reg i.rt s with ⟨_, e⟩ | ⟨_, _, e⟩ | ⟨_, _, e⟩ | ⟨a, f, e⟩ | ⟨a, e⟩ <;>
      rw [e] at h <;> simp at h <;> simp_all

/-- No instruction is refused. -/
theorem exec_ne_refused (i : Instr) (s : State) (r : Refusal) : exec i s ≠ .refused r := by
  intro h
  rw [← accessor_fields i] at h
  cases hd : i.dir <;> rw [hd] at h
  · rw [exec_read] at h
    rcases readAP0R_cases i.reg i.rt s with ⟨_, e⟩ | ⟨_, _, e⟩ | ⟨_, _, e⟩ | ⟨_, _, e⟩ | ⟨_, e⟩ <;> rw [e] at h <;> simp at h
  · rw [exec_write] at h
    rcases writeAP0R_cases i.reg i.rt s with ⟨_, e⟩ | ⟨_, _, e⟩ | ⟨_, _, e⟩ | ⟨_, _, e⟩ | ⟨_, e⟩ <;> rw [e] at h <;> simp at h

end Sys2Proof.Machine
end

