-- ==== Sys2Proof/Laws/Marks.lean ====
section
/-! SUPPORT. What the operations that set marks and the operations of the virtual CPU interface change. -/

namespace Sys2Proof.Machine

theorem markOverlap_frame (s : State) : markOverlap s = { s with marks := (markOverlap s).marks } := rfl

theorem markLegacyAt_frame (m : Fin 4) (s : State) : markLegacyAt m s = { s with marks := (markLegacyAt m s).marks } := rfl

/-- A register write changes one register and the marks. -/
theorem regWrite_frame (m : Fin 4) (v : Word) (s : State) :
    regWrite m v s = { s with ap0r := (regWrite m v s).ap0r, marks := (regWrite m v s).marks } := by
  unfold regWrite; split <;> rfl

/-- Without EL2 the register is RES0: the write is ignored (R29). -/
theorem regWrite_of_noEL2 (m : Fin 4) (v : Word) {s : State} (h : s.cfg.haveEL2 = false) : regWrite m v s = s := by
  simp [regWrite, h]

/-- The registers after a register write (R101). -/
theorem regWrite_ap0r (m : Fin 4) (v : Word) {s : State} (h : s.cfg.haveEL2 = true) :
    (regWrite m v s).ap0r = s.ap0r.set m (keepLow v) := by
  simp [regWrite, h, markLegacyAt, markOverlap, setAp0r, markWrite]

/-- The contents of `AP0R` depend on the field `ap0r` only. -/
theorem ap0r_congr {s u : State} (h : u.ap0r = s.ap0r) (n : Fin 4) : ap0r n u = ap0r n s := by
  unfold ap0r; rw [h]

/-- The overlap depends on the parameters and the two groups of registers only. -/
theorem overlap_congr {s u : State} (hc : u.cfg = s.cfg) (h0 : u.ap0r = s.ap0r) (h1 : u.ap1r = s.ap1r) :
    overlap u = overlap s := by
  simp only [overlap, overlapAt, ap0r, ap1r, hc, h0, h1]

/-- Whether some register is active depends on the parameters and the registers only. -/
theorem anyActive_congr {s u : State} (hc : u.cfg = s.cfg) (h0 : u.ap0r = s.ap0r) : anyActive u = anyActive s := by
  simp only [anyActive, activeAt, ap0r, hc, h0]

/-- Some implemented register is not zero. -/
theorem anyActive_iff (s : State) : anyActive s = true ↔ ∃ n : Fin 4, s.cfg.implemented n = true ∧ ap0r n s ≠ 0 := by
  simp only [anyActive, activeAt, Bool.or_eq_true, Bool.and_eq_true, bne_iff_ne, Fin.exists_fin_succ, Fin.exists_fin_zero]
  simp [Fin.succ, or_assoc]

/-- Some bit is set in both groups. -/
theorem overlap_iff (s : State) :
    overlap s = true ↔ ∃ n : Fin 4, s.cfg.implemented n = true ∧ (ap0r n s &&& ap1r n s) ≠ 0 := by
  simp only [overlap, overlapAt, Bool.or_eq_true, Bool.and_eq_true, bne_iff_ne, Fin.exists_fin_succ, Fin.exists_fin_zero]
  simp [Fin.succ, or_assoc]

/-- The marks after a register write (R101). -/
theorem regWrite_marks (m : Fin 4) (v : Word) {s : State} (h : s.cfg.haveEL2 = true) :
    (regWrite m v s).marks =
      { refusedRes0 := s.marks.refusedRes0 || highHalf v != 0
        unpredValue := s.marks.unpredValue || !valueAdmitted m v s
        unpredOrder := s.marks.unpredOrder || s.ap1rWritten
        unpredOverlap := s.marks.unpredOverlap || (s.el2Enabled && overlap (setAp0r m v s))
        unpredLegacy := s.marks.unpredLegacy || (s.el2Enabled && s.legacyVM && keepLow v != 0) } := by
  have ho : overlap (setAp0r m v (markWrite m v s)) = overlap (setAp0r m v s) := overlap_congr rfl rfl rfl
  have ha : ap0r m (markOverlap (setAp0r m v (markWrite m v s))) = keepLow v :=
    (ap0r_congr (s := setAp0r m v s) rfl m).trans (by rw [ap0r_setAp0r, if_pos rfl])
  simp only [regWrite, h, if_true, markLegacyAt, ha]
  simp only [markOverlap, ho]
  rfl

/-- `readDirect`, field by field. -/
theorem readDirect_eq (m : Fin 4) (t : Nat) (s : State) :
    readDirect m t s = { s with
      x := if h : t < 31 then s.x.set t (directRead m s) else s.x
      lastRead := s.lastRead.set m (some (directRead m s))
      pc := s.pc + 4 } := by
  rw [readDirect, writeX_frame]; rfl

/-- `readRedirected`, field by field. -/
theorem readRedirected_eq (m : Fin 4) (t : Nat) (s : State) :
    readRedirected m t s = { s with
      x := if h : t < 31 then s.x.set t (nvMemRead (nvMemOffset m) s) else s.x
      pc := s.pc + 4 } := by
  rw [readRedirected, writeX_frame]; rfl

/-- `writeDirect`, field by field. -/
theorem writeDirect_eq (m : Fin 4) (t : Nat) (s : State) :
    writeDirect m t s = { s with
      ap0r := (regWrite m (readX t s) s).ap0r, marks := (regWrite m (readX t s) s).marks, pc := s.pc + 4 } := by
  rw [writeDirect, regWrite_frame]; rfl

/-- `writeRedirected`, field by field. -/
theorem writeRedirected_eq (m : Fin 4) (t : Nat) (s : State) :
    writeRedirected m t s = { s with
      nvmem := storeSlot s.cfg.nvMemBigEndian (nvMemOffset m) (readX t s) s.nvmem, pc := s.pc + 4 } := rfl

/-- A step of the virtual CPU interface changes one register and the marks. -/
theorem settleMarks_setAp0r (n : Fin 4) (v : Word) (s : State) :
    settleMarks n (setAp0r n v s) = { s with
      ap0r := s.ap0r.set n (keepLow v)
      marks := { s.marks with
        unpredOverlap := s.marks.unpredOverlap || (s.el2Enabled && overlap (setAp0r n v s))
        unpredLegacy := s.marks.unpredLegacy || (s.el2Enabled && s.legacyVM && keepLow v != 0) } } := by
  have ha : ap0r n (markOverlap (setAp0r n v s)) = keepLow v :=
    (ap0r_congr (s := setAp0r n v s) rfl n).trans (by rw [ap0r_setAp0r, if_pos rfl])
  rw [settleMarks, markLegacyAt, ha]
  rfl

/-- When the interface may act. -/
theorem vcpuifMayAct_iff (s : State) :
    vcpuifMayAct s = true ↔
      s.cfg.present = true ∧ s.el2Enabled = true ∧ AtGuestLevel s ∧ s.vcpuifEnabled = true := by
  unfold vcpuifMayAct AtGuestLevel
  cases s.cfg.present <;> cases s.el2Enabled <;> cases s.vcpuifEnabled <;> cases s.pstate.el <;> simp

/-- Everything `Activate0` can do. -/
theorem activate0_cases (p : Byte) (s : State) :
    (vcpuifMayAct s = true ∧ activate0 p s = .next (settleMarks (apReg s.cfg.pre p)
      (setAp0r (apReg s.cfg.pre p) (ap0r (apReg s.cfg.pre p) s ||| bitMask (apBit s.cfg.pre p)) s))) ∨
    (vcpuifMayAct s = false ∧ activate0 p s = .refused .vcpuifNotEnabled) := by
  unfold activate0; cases vcpuifMayAct s <;> simp

/-- Everything `Drop0` can do. -/
theorem drop0_cases (n : Fin 4) (x : Fin 32) (s : State) :
    (vcpuifMayAct s = true ∧ s.cfg.implemented n = true ∧ (ap0r n s).getLsbD x.val = true ∧
      drop0 n x s = .next (settleMarks n (setAp0r n (ap0r n s &&& ~~~(bitMask x)) s))) ∨
    (vcpuifMayAct s = true ∧ ¬(s.cfg.implemented n = true ∧ (ap0r n s).getLsbD x.val = true) ∧
      drop0 n x s = .refused .dropNotEnabled) ∨
    (vcpuifMayAct s = false ∧ drop0 n x s = .refused .vcpuifNotEnabled) := by
  unfold drop0
  cases vcpuifMayAct s <;> cases s.cfg.implemented n <;> cases (ap0r n s).getLsbD x.val <;> simp

/-- The level of a priority fits the preemption bits (R27). -/
theorem level_eq (pre : Pre) (p : Byte) : level pre p = p.toNat / 2 ^ (8 - pre.bits) := by
  simp [level, BitVec.toNat_ushiftRight, Nat.shiftRight_eq_div_pow]

/-- The register of a priority is implemented (R27). -/
theorem apReg_implemented (c : Config) (p : Byte) : c.implemented (apReg c.pre p) = true := by
  have hp := p.isLt
  have hl := level_eq c.pre p
  unfold Config.implemented apReg
  cases h : c.pre <;> rw [h] at hl <;> simp only [Pre.bits] at hl ⊢
  · have : level .five p / 32 = 0 := by rw [hl]; omega
    rw [this]; rfl
  · have : level .six p / 32 = 0 ∨ level .six p / 32 = 1 := by rw [hl]; omega
    rcases this with e | e <;> rw [e] <;> rfl
  · have : level .seven p / 32 = 0 ∨ level .seven p / 32 = 1 ∨ level .seven p / 32 = 2 ∨ level .seven p / 32 = 3 := by
      rw [hl]; omega
    rcases this with e | e | e | e <;> rw [e] <;> rfl

end Sys2Proof.Machine
end

