-- ==== Sys2Proof/Laws/Env.lean ====
section
/-! SUPPORT. What taking an exception, returning from one, and an event can do. -/

namespace Sys2Proof.Machine

/-- Entry changes `PSTATE`, the pc and the target's saved registers, and nothing else. -/
theorem enterException_frame (target : ELx) (ret : Word) (esr : BitVec 32) (s : State) :
    ∃ b1 b2 b3, enterException target ret esr s = { s with
      pstate := (enterException target ret esr s).pstate, pc := (enterException target ret esr s).pc,
      bank1 := b1, bank2 := b2, bank3 := b3 } := by
  cases target <;> exact ⟨_, _, _, rfl⟩

@[simp] theorem enterException_el (target : ELx) (ret : Word) (esr : BitVec 32) (s : State) :
    (enterException target ret esr s).pstate.el = target.toEL := rfl

/-- Where a raised outcome is taken: only on a composed machine, at the level the outcome names (R116). -/
theorem deliver_next {s u : State} {f : Fault} (h : deliver s f = .next u) :
    s.cfg.composed = true ∧
      ((∃ ret, f = .undefined ret ∧ u = enterException (undefinedTarget s) ret undefinedEsr s) ∨
       ∃ target code ret esr, f = .sysTrap target code ret esr ∧ u = enterException target ret esr s) := by
  unfold deliver at h
  cases hc : s.cfg.composed
  · simp [hc] at h
  · rw [hc, if_pos rfl] at h
    refine ⟨rfl, ?_⟩
    cases f <;> simp at h <;> simp [h]

/-- A delivered outcome that is a next state is `exec`'s, or an entry. -/
theorem deliverOutcome_next {s u : State} {o : Host.Outcome State Fault Refusal} (h : deliverOutcome s o = .next u) :
    o = .next u ∨ ∃ f, o = .fault f ∧ deliver s f = .next u := by
  cases o with
  | next t => exact .inl h
  | fault f => exact .inr ⟨f, rfl, h⟩
  | refused r => simp [deliverOutcome] at h

/-- What the PE's turn can do. -/
theorem peStep_next {s u : State} (h : peStep s = .next u) :
    pcAligned s.pc = true ∧ ∃ i, decode (fetchWord s) = .instr i ∧ deliverOutcome s (exec i s) = .next u := by
  unfold peStep at h
  split at h
  · rename_i ha
    cases hd : decode (fetchWord s) with
    | instr i => rw [hd] at h; exact ⟨ha, i, rfl, h⟩
    | reject e => rw [hd] at h; simp at h
  · simp at h

/-- What a step can do: the PE's turn, or an event's. -/
theorem step_next {s u : State} (h : step s = .next u) :
    (∃ p, peTurn s = some p ∧ eventTurn s = none ∧ peStep p = .next u) ∨
    (∃ e rest, s.turns = .env e :: rest ∧ peTurn s = none ∧ eventTurn s = some e ∧
      applyEvent e (s.setTurns rest) = .next u) := by
  unfold step at h
  unfold peTurn eventTurn
  split at h <;> rename_i ht <;> rw [ht]
  · exact .inl ⟨s, rfl, rfl, h⟩
  · exact .inl ⟨_, rfl, rfl, h⟩
  · exact .inr ⟨_, _, rfl, rfl, rfl, h⟩

/-- A step of the PE's turn. -/
theorem step_of_peTurn {s p : State} (h : peTurn s = some p) : step s = peStep p := by
  unfold peTurn at h
  unfold step
  cases ht : s.turns with
  | nil => simp only [ht, Option.some.injEq] at h ⊢; rw [h]
  | cons t rest =>
    cases t with
    | pe => simp only [ht, Option.some.injEq] at h ⊢; rw [h]
    | env e => simp [ht] at h

/-- The PE's turn sees the state, but for the turn taken off the list. -/
theorem peTurn_frame {s p : State} (h : peTurn s = some p) : ∃ ts, p = s.setTurns ts := by
  unfold peTurn at h
  split at h
  · exact ⟨s.turns, (Option.some.inj h).symm⟩
  · exact ⟨_, (Option.some.inj h).symm⟩
  · simp at h

/-- What a return from an exception does, where it is one. -/
theorem exceptionReturn_next {s u : State} (h : exceptionReturn s = .next u) :
    ∃ l, currentELx s = some l ∧ (bank l s).spsr.el.rank ≤ s.pstate.el.rank ∧
      consistentControls s.cfg (bank l s).spsr.el s.el2Enabled = true ∧
      u = { s with pstate := (bank l s).spsr, pc := (bank l s).elr } := by
  unfold exceptionReturn at h
  cases hl : currentELx s with
  | none => simp [hl] at h
  | some l =>
    simp only [hl] at h
    split at h
    · split at h
      · exact ⟨l, rfl, ‹_›, ‹_›, (Host.Outcome.next.inj h).symm⟩
      · simp at h
    · simp at h

/-- Evaluating the conditions changes the marks only. -/
theorem reevaluate_eq (s : State) : reevaluate s = { s with marks := { s.marks with
    unpredOverlap := s.marks.unpredOverlap || (s.el2Enabled && overlap s)
    unpredLegacy := s.marks.unpredLegacy || (s.el2Enabled && s.legacyVM && anyActive s) } } := rfl

/-- The window a launch fills is in canonical form and holds nothing outside the slots. -/
theorem slotMemory_wf (e : Bool) (v : Vector Word 4) : (slotMemory e v).wf :=
  storeSlot_wf e _ _ (storeSlot_wf e _ _ (storeSlot_wf e _ _ (storeSlot_wf e _ _ ⟨List.Pairwise.nil, by simp⟩)))

theorem mem_slotMemory {e : Bool} {v : Vector Word 4} {c : Host.Cell} (h : c ∈ slotMemory e v) :
    0x480 ≤ c.1 ∧ c.1 < 0x4A0 := by
  unfold slotMemory at h
  have o (m : Fin 4) := nvMemOffset_range m
  rcases mem_storeSlot h with h | h
  · have := o 3; omega
  rcases mem_storeSlot h with h | h
  · have := o 2; omega
  rcases mem_storeSlot h with h | h
  · have := o 1; omega
  rcases mem_storeSlot h with h | h
  · have := o 0; omega
  simp at h

end Sys2Proof.Machine
end

