-- ==== Sys2Proof/Laws/PerInstr.lean ====
section
/-! SUPPORT. Statements about each instruction as a term, one lemma per constructor. -/

namespace Sys2Proof.Laws.EncodingRow

/-- The word of a well-formed instruction, as the table has it (R74): `match` under the mask, and `Rt` in bits [4:0]. -/
def Statement (i : Instr) : Prop :=
  i.wellFormed = true → encode i &&& rowMask = rowMatch i ∧ (encode i &&& 0x1F#32).toNat = i.rt

/-- The fields above `Rt` and `Rt` itself, taken apart. -/
theorem encodeFields_split (d : Dir) (m : Fin 4) (t : BitVec 5) :
    encodeFields d m t.toNat &&& rowMask = rowMatch (.accessor d m 0) ∧ encodeFields d m t.toNat &&& 0x1F#32 = t.setWidth 32 := by
  cases d <;> revert m t <;> decide +revert

/-- The row of every accessor. -/
theorem row_accessor (d : Dir) (m : Fin 4) (t : Nat) : Statement (.accessor d m t) := by
  intro h
  have ht : t < 32 := by simpa [Instr.wellFormed, Instr.rtInRange] using h
  have hw : encode (.accessor d m t) = encodeFields d m (BitVec.ofNat 5 t).toNat := by
    simp [encode, Nat.mod_eq_of_lt ht]
  obtain ⟨h1, h2⟩ := encodeFields_split d m (BitVec.ofNat 5 t)
  refine ⟨?_, ?_⟩
  · rw [hw, h1]; cases d <;> fin_cases m <;> rfl
  · rw [hw, h2]; simp; omega

theorem mrsAp0r0 (t : Nat) : Statement (.mrsAp0r0 t) := row_accessor .read 0 t

theorem mrsAp0r1 (t : Nat) : Statement (.mrsAp0r1 t) := row_accessor .read 1 t

theorem mrsAp0r2 (t : Nat) : Statement (.mrsAp0r2 t) := row_accessor .read 2 t

theorem mrsAp0r3 (t : Nat) : Statement (.mrsAp0r3 t) := row_accessor .read 3 t

theorem msrAp0r0 (t : Nat) : Statement (.msrAp0r0 t) := row_accessor .write 0 t

theorem msrAp0r1 (t : Nat) : Statement (.msrAp0r1 t) := row_accessor .write 1 t

theorem msrAp0r2 (t : Nat) : Statement (.msrAp0r2 t) := row_accessor .write 2 t

theorem msrAp0r3 (t : Nat) : Statement (.msrAp0r3 t) := row_accessor .write 3 t

end Sys2Proof.Laws.EncodingRow
end

