-- ==== Sys2Proof/Tests/Slice0.lean ====
section
/-! SUPPORT. Tests whose expected results come from spec/95_test_vectors.md (the row is named in each comment), and for each
statement with hypotheses a witness that meets them. -/

namespace Sys2Proof.Tests

open Sys2Proof Sys2Proof.Machine

/-! ### States the tests start from: the head of 95_test_vectors.md, which is the state after reset but for the level -/

/-- The defaults of 95_test_vectors.md at an Exception level. -/
def atEL (l : EL) : State := { State.reset with pstate := { resetPState with el := l } }

/-- The same with another number of bits of preemption. -/
def withPre (p : Pre) (s : State) : State := { s with cfg := { s.cfg with pre := p } }

/-- The same on a machine composed with a base PE. -/
def composedPE (s : State) : State := { s with cfg := { s.cfg with composed := true } }

/-- The same without EL2: only EL3 is left. -/
def withoutEL2 (s : State) : State := { s with cfg := { s.cfg with haveEL2 := false, pre := .five }, el2Enabled := false }

/-- A guest hypervisor at EL1 with given `NV` bits. -/
def guest (nv2 nv : Bool) : State := { atEL .el1 with nv2 := nv2, nv := nv }

/-- A guest hypervisor whose redirected access faults. -/
def faultingGuest : State :=
  { guest true true with cfg := { resetConfig with nvMemCanFault := true }, nvMemFaulting := true }

/-- A state with one general-purpose register set. -/
def withX (t : Fin 31) (v : Word) (s : State) : State := { s with x := s.x.set t v }

/-- A state with one `AP0R` register set. -/
def withAp0r (m : Fin 4) (v : Word) (s : State) : State := { s with ap0r := s.ap0r.set m v }

/-- A state with one last read value. -/
def withLastRead (m : Fin 4) (v : Word) (s : State) : State := { s with lastRead := s.lastRead.set m (some v) }

/-- A launch that gives every input a value other than the reset state's. -/
def someLaunch : Launch where
  x := Vector.replicate 31 7
  pc := 0x2000
  pstate := { zeroPState with el := .el1 }
  el2Enabled := true
  nv := true
  nv2 := true
  tge := true
  sreEL2 := false
  sreEL3 := false
  bank1 := resetBank
  bank2 := resetBank
  bank3 := resetBank
  ap1r := #v[1, 2, 3, 4]
  slots := #v[0x1234, 0, 0x9999, 0xFFFFFFFF00000004]
  legacyVM := false
  vcpuifEnabled := true
  nvMemFaulting := false

/-! ### Decoding: words written out field by field, most significant first: the fixed bits, `L`, `op0`, `op1`, `CRn`, `CRm`,
`op2`, `Rt` (30_encoding.md R72) -/

/-- `MRS X3, ICH_AP0R0_EL2` (0xD53CC803, V1). -/
theorem test_decode_mrsAp0r0 : decode
    (0b1101010100#10 ++ 0b1#1 ++ 0b11#2 ++ 0b100#3 ++ 0b1100#4 ++ 0b1000#4 ++ 0b000#3 ++ 0b00011#5) =
    .instr (.mrsAp0r0 3) := by decide

/-- `MRS X5, ICH_AP0R1_EL2` (0xD53CC825, the word taken apart in section 2). -/
theorem test_decode_mrsAp0r1 : decode
    (0b1101010100#10 ++ 0b1#1 ++ 0b11#2 ++ 0b100#3 ++ 0b1100#4 ++ 0b1000#4 ++ 0b001#3 ++ 0b00101#5) =
    .instr (.mrsAp0r1 5) := by decide

/-- `MRS X30, ICH_AP0R2_EL2` (0xD53CC85E). -/
theorem test_decode_mrsAp0r2 : decode
    (0b1101010100#10 ++ 0b1#1 ++ 0b11#2 ++ 0b100#3 ++ 0b1100#4 ++ 0b1000#4 ++ 0b010#3 ++ 0b11110#5) =
    .instr (.mrsAp0r2 30) := by decide

/-- `MRS XZR, ICH_AP0R3_EL2` (0xD53CC87F). -/
theorem test_decode_mrsAp0r3 : decode
    (0b1101010100#10 ++ 0b1#1 ++ 0b11#2 ++ 0b100#3 ++ 0b1100#4 ++ 0b1000#4 ++ 0b011#3 ++ 0b11111#5) =
    .instr (.mrsAp0r3 31) := by decide

/-- `MSR ICH_AP0R0_EL2, XZR` (0xD51CC81F). -/
theorem test_decode_msrAp0r0 : decode
    (0b1101010100#10 ++ 0b0#1 ++ 0b11#2 ++ 0b100#3 ++ 0b1100#4 ++ 0b1000#4 ++ 0b000#3 ++ 0b11111#5) =
    .instr (.msrAp0r0 31) := by decide

/-- `MSR ICH_AP0R1_EL2, X1` (0xD51CC821). -/
theorem test_decode_msrAp0r1 : decode
    (0b1101010100#10 ++ 0b0#1 ++ 0b11#2 ++ 0b100#3 ++ 0b1100#4 ++ 0b1000#4 ++ 0b001#3 ++ 0b00001#5) =
    .instr (.msrAp0r1 1) := by decide

/-- `MSR ICH_AP0R2_EL2, X9` (0xD51CC849). -/
theorem test_decode_msrAp0r2 : decode
    (0b1101010100#10 ++ 0b0#1 ++ 0b11#2 ++ 0b100#3 ++ 0b1100#4 ++ 0b1000#4 ++ 0b010#3 ++ 0b01001#5) =
    .instr (.msrAp0r2 9) := by decide

/-- `MSR ICH_AP0R3_EL2, X9` (0xD51CC869). -/
theorem test_decode_msrAp0r3 : decode
    (0b1101010100#10 ++ 0b0#1 ++ 0b11#2 ++ 0b100#3 ++ 0b1100#4 ++ 0b1000#4 ++ 0b011#3 ++ 0b01001#5) =
    .instr (.msrAp0r3 9) := by decide

/-- The words of section 2 that are no instruction of the spec, and bytes that are too few. -/
theorem test_decode_rejects :
    decode 0xD53CC880#32 = .reject .reservedOp2 ∧ decode 0xD51CC8FF#32 = .reject .reservedOp2 ∧
    decode 0xD53CC900#32 = .reject .otherRegister ∧ decode 0xD538C800#32 = .reject .otherRegister ∧
    decode 0#32 = .reject .notSystemMove ∧ decodeBytes [0x03, 0xC8, 0x3C] = (.reject .truncated, [0x03, 0xC8, 0x3C]) := by
  decide

/-- The bytes of 0xD53CC825 in memory's order (R72: little-endian), and the table's numbering of the same word. -/
theorem test_decode_bytes :
    decodeBytes [0x25, 0xC8, 0x3C, 0xD5, 0xAA] = (.instr (.mrsAp0r1 5), [0xAA]) ∧
    decodeTableWord 32 0xD53CC825 = some (.mrsAp0r1 5) ∧ encode (.mrsAp0r1 5) = 0xD53CC825#32 := by decide

/-- WellFormed: an operand beyond the field `Rt` is refused, each way of moving data; every value of the field is not. -/
theorem test_wellFormed_rt :
    (Instr.mrsAp0r0 32).wellFormed = false ∧ (Instr.msrAp0r3 32).wellFormed = false ∧
    (Instr.mrsAp0r0 0).wellFormed = true ∧ (Instr.msrAp0r3 31).wellFormed = true := by decide

/-! ### Instructions -/

/-- V2: `MRS XZR, ICH_AP0R0_EL2`: no register changes, `last_read[0]` does. -/
theorem test_mrsAp0r0_xzr :
    (nextOf (exec (.mrsAp0r0 31) (withAp0r 0 0x8 (atEL .el2)))).map (fun u => (u.x, u.lastRead[0], u.pc)) =
      some (Vector.replicate 31 0, some 0x8, 0x1004) := by decide

/-- M1: redirected: the slot is read, the register and `last_read` are not. -/
theorem test_mrsAp0r0_nvMem :
    (nextOf (exec (.mrsAp0r0 3) (nvMemWrite 0x480 0x1234 (withAp0r 0 0x55 (guest true true))))).map
      (fun u => (u.x[3], ap0r 0 u, u.lastRead[0])) = some (0x1234, 0x55, none) := by decide

/-- P4: `NV` without `NV2` traps to EL2, with the syndrome `0x623330B1`. -/
theorem test_mrsAp0r1_trap :
    faultOf (exec (.mrsAp0r1 5) (withPre .six (guest false true))) =
      some (.sysTrap .el2 0x18 0x1000 0x623330B1) := by decide

/-- A5: a register that is not implemented is `Undefined` before the redirect is considered. -/
theorem test_mrsAp0r1_unimplemented :
    faultOf (exec (.mrsAp0r1 2) (withPre .five (guest true true))) = some (.undefined 0x1000) := by decide

/-- V3: a direct read from EL3. -/
theorem test_mrsAp0r2_el3 :
    (nextOf (exec (.mrsAp0r2 0) (withAp0r 2 0x80000000 (atEL .el3)))).map (fun u => (u.x[0], u.lastRead[2])) =
      some (0x80000000, some 0x80000000) := by decide

/-- A21: the redirected access faults. -/
theorem test_mrsAp0r2_nvMemFault : faultOf (exec (.mrsAp0r2 1) faultingGuest) = some (.nvMemFault 0x1000) := by decide

/-- A24: at EL3 with `SRE_EL3 = 0` the access traps to EL3; the syndrome of `MRS X30, ICH_AP0R3_EL2` is `0x623733D1`. -/
theorem test_mrsAp0r3_trap :
    faultOf (exec (.mrsAp0r3 30) { atEL .el3 with sreEL3 := false, sreEL2 := false }) =
      some (.sysTrap .el3 0x18 0x1000 0x623733D1) := by decide

/-- A25: EL3 does not need `EL2Enabled`. -/
theorem test_mrsAp0r3_el2Disabled :
    (nextOf (exec (.mrsAp0r3 10) (withAp0r 3 0x2 { atEL .el3 with el2Enabled := false }))).map (fun u => u.x[10]) =
      some 0x2 := by decide

/-- V12: bits [63:32] are not kept, and a value with one of them set is marked, with no other mark. -/
theorem test_msrAp0r0_upperHalf :
    (nextOf (exec (.msrAp0r0 0) (withLastRead 0 0x2 (withX 0 0x0000000100000002 (atEL .el2))))).map
      (fun u => (ap0r 0 u, u.marks)) = some (0x2, { Marks.none with refusedRes0 := true }) := by decide

/-- V17: without EL2 the write is ignored, with no mark. -/
theorem test_msrAp0r0_withoutEL2 :
    (nextOf (exec (.msrAp0r0 2) (withX 2 0xFFFFFFFFFFFFFFFF (withoutEL2 (atEL .el3))))).map
      (fun u => (u.ap0r, u.marks, u.pc)) = some (#v[0, 0, 0, 0], Marks.none, 0x1004) := by decide

/-- V14: an overlap is marked. -/
theorem test_msrAp0r1_overlap :
    (nextOf (exec (.msrAp0r1 2) (withLastRead 1 0x10 (withX 2 0x10 { atEL .el2 with ap1r := #v[0, 0x10, 0, 0] })))).map
      (fun u => (ap0r 1 u, u.marks)) = some (0x10, { Marks.none with unpredOverlap := true }) := by decide

/-- M2: redirected: all 64 bits go to slot 0x488, and nothing is marked. -/
theorem test_msrAp0r1_nvMem :
    (nextOf (exec (.msrAp0r1 1) (withPre .six (withX 1 0xFFFFFFFF00000004 (guest true true))))).map
      (fun u => (nvMemRead 0x488 u, ap0r 1 u, u.marks)) = some (0xFFFFFFFF00000004, 0, Marks.none) := by decide

/-- V18: at EL2 with `SRE_EL2 = 0` the access traps; the syndrome of `MSR ICH_AP0R2_EL2, X0` is `0x62353010`. -/
theorem test_msrAp0r2_trap :
    faultOf (exec (.msrAp0r2 0) { atEL .el2 with sreEL2 := false }) = some (.sysTrap .el2 0x18 0x1000 0x62353010) := by
  decide

/-- M3: zero goes to slot 0x490, and the window is then as if never written. -/
theorem test_msrAp0r2_nvMem :
    (nextOf (exec (.msrAp0r2 31) (nvMemWrite 0x490 0x9999 (guest true true)))).map
      (fun u => (nvMemRead 0x490 u, u.nvmem)) = some (0, []) := by decide

/-- P6, first step: every obligation broken at once. -/
theorem test_msrAp0r3_marks :
    (nextOf (exec (.msrAp0r3 9) (withX 9 0x0000000100000002
      { atEL .el2 with ap1r := #v[0, 0, 0, 0x2], ap1rWritten := true }))).map (fun u => (ap0r 3 u, u.marks)) =
      some (0x2, ⟨true, true, true, false, true⟩) := by decide

/-- M4, first step: slot 0x498, the other slots unchanged. -/
theorem test_msrAp0r3_nvMem :
    (nextOf (exec (.msrAp0r3 7) (nvMemWrite 0x490 0x9999 (withX 7 0xABCD (guest true true))))).map
      (fun u => (nvMemRead 0x480 u, nvMemRead 0x488 u, nvMemRead 0x490 u, nvMemRead 0x498 u)) =
      some (0, 0, 0x9999, 0xABCD) := by decide

/-! ### Events, exceptions and the step -/

/-- I1 and I4: the bit of the priority's level. -/
theorem test_activate0 :
    (nextOf (applyEvent (.activate0 0x40) (withPre .five (atEL .el1)))).map (fun u => u.ap0r) =
      some #v[0x100, 0, 0, 0] ∧
    (nextOf (applyEvent (.activate0 0xFF) (withPre .six (atEL .el0)))).map (fun u => u.ap0r) =
      some #v[0, 0x80000000, 0, 0] := by decide

/-- I5: an overlap the interface makes is marked. -/
theorem test_activate0_overlap :
    (nextOf (applyEvent (.activate0 0x80) (withPre .six { atEL .el1 with ap1r := #v[0, 0x1, 0, 0] }))).map
      (fun u => (ap0r 1 u, u.marks)) = some (0x1, { Marks.none with unpredOverlap := true }) := by decide

/-- I6 and I7: a drop clears the bit; at EL2 there is no such step. -/
theorem test_drop0 :
    (nextOf (applyEvent (.drop0 0 8) (withPre .five (withAp0r 0 0x100 (atEL .el1))))).map (fun u => ap0r 0 u) = some 0 ∧
    refusalOf (applyEvent (.drop0 0 8) (withAp0r 0 0x100 (atEL .el2))) = some .vcpuifNotEnabled := by decide

/-- Z1 and Z2: what a Warm reset clears. -/
theorem test_warmReset :
    (nextOf (applyEvent (.warmReset someLaunch)
      { withLastRead 0 0x5 (atEL .el2) with
        ap0r := #v[0xFFFFFFFF, 0x1, 0x80000000, 0x2], marks := ⟨true, false, false, false, true⟩, ap1rWritten := true })).map
      (fun u => (u.ap0r, u.marks, u.lastRead, u.ap1rWritten)) =
      some (#v[0, 0, 0, 0], Marks.none, #v[none, none, none, none], false) := by decide

/-- X6 taken on a composed machine: from a lower level, so offset 0x400, with the syndrome of P4. -/
theorem test_entry_from_lower_level :
    (nextOf (step (State.withFetchWord (composedPE { guest false true with bank2 := { resetBank with vbar := 0x8000 } })
      32 0xD53CC825))).map (fun u => (u.pc, u.pstate.el, u.bank2.elr, u.bank2.esr)) =
      some (0x8400, .el2, 0x1000, 0x623330B1) := by decide

/-- The first step after reset runs the instruction placed at the pc (P9's second word, at EL3). -/
theorem test_step_from_reset :
    (nextOf (step (State.withFetchWord State.reset 32 0xD53CC801))).map (fun u => (u.pc, u.x[1], u.lastRead[0])) =
      some (0x1004, 0, some 0) := by decide

/-! ### Witnesses: for each statement with hypotheses, values that meet them together, with the ends of each range -/

theorem witness_DecodeFollowsOpcodeTable :
    0xD53CC87F#32 &&& 0xFFFFFF80#32 = 0xD53CC800#32 ∧ 0xD51CC800#32 &&& 0xFFFFFF80#32 = 0xD51CC800#32 ∧
    decode 0xD53CC87F#32 = .instr (.mrsAp0r3 31) ∧ decode 0xD51CC800#32 = .instr (.msrAp0r0 0) := by decide

theorem witness_DecodeOfEncodeIsIdentity :
    (Instr.msrAp0r3 31).wellFormed = true ∧ (Instr.mrsAp0r0 0).wellFormed = true := by decide

theorem witness_DecodedWordsReencode : decode 0xD51CC87F#32 = .instr (.msrAp0r3 31) := by decide

theorem witness_EncodedWordIsBasePlusIndexPlusRt : (0 : Nat) < 32 ∧ (31 : Nat) < 32 := by decide

theorem witness_ReservedOp2IsNotAccepted :
    (0 : Nat) < 0x80 ∧ (0x7F : Nat) < 0x80 ∧ 0xD53CC880#32 = BitVec.ofNat 32 (0xD53CC880 + 0) ∧
    0xD51CC8FF#32 = BitVec.ofNat 32 (0xD51CC880 + 0x7F) ∧
    pcAligned (State.reset.withFetchWord 32 0xD51CC8FF).pc = true ∧
    fetchWord (State.reset.withFetchWord 32 0xD51CC8FF) = 0xD51CC8FF#32 := by decide

theorem witness_PreemptionBitsGiveRegisters :
    (withPre .five State.reset).cfg.pre = .five ∧ (withPre .six State.reset).cfg.pre = .six ∧
    State.reset.cfg.pre = .seven := by decide

/-- Each of the exceptions X1 to X9 occurs. -/
theorem witness_ExceptionsOfTheAccessors :
    faultOf (exec (.mrsAp0r0 31) { atEL .el2 with cfg := { resetConfig with haveGICv3 := false } }) =
      some (.undefined 0x1000) ∧
    faultOf (exec (.msrAp0r1 0) (withPre .five (atEL .el2))) = some (.undefined 0x1000) ∧
    faultOf (exec (.msrAp0r3 0) (withPre .six (atEL .el3))) = some (.undefined 0x1000) ∧
    faultOf (exec (.mrsAp0r0 0) (atEL .el0)) = some (.undefined 0x1000) ∧
    faultOf (exec (.mrsAp0r0 0) (guest true false)) = some (.undefined 0x1000) ∧
    faultOf (exec (.msrAp0r0 31) (guest false true)) = some (.sysTrap .el2 0x18 0x1000 (sysTrapEsr .write 0 31)) ∧
    faultOf (exec (.mrsAp0r2 0) { atEL .el2 with sreEL2 := false }) =
      some (.sysTrap .el2 0x18 0x1000 (sysTrapEsr .read 2 0)) ∧
    faultOf (exec (.mrsAp0r3 0) { atEL .el3 with sreEL3 := false }) =
      some (.sysTrap .el3 0x18 0x1000 (sysTrapEsr .read 3 0)) ∧
    faultOf (exec (.msrAp0r3 0) faultingGuest) = some (.nvMemFault 0x1000) := by decide

theorem witness_FirstCheckInOrderDecides :
    ¬RegExists 1 (withPre .five (guest true true)) ∧ ¬RegExists 3 (withPre .six (atEL .el3)) ∧
    RegExists 0 (atEL .el0) ∧ RegExists 3 (guest true true) ∧ RegExists 1 (withPre .six (atEL .el2)) ∧
    RegExists 0 (withoutEL2 (atEL .el3)) ∧
    (guest true false).pstate.el = .el1 ∧ (guest true false).nv = false ∧
    (guest true true).pstate.el ≠ .el2 ∧ (guest true true).pstate.el ≠ .el3 ∧ (atEL .el2).pstate.el ≠ .el1 := by decide

/-- Each way an access is performed. -/
theorem witness_PrivilegeOfEachLevel :
    DirectAccess 3 (atEL .el2) ∧ DirectAccess 0 (withoutEL2 (atEL .el3)) ∧ RedirectedAccess 3 (guest true true) ∧
    (guest true true).cfg.nvMemCanFault = false := by decide

/-- Both ends of the operand's range. -/
theorem witness_AccessorsFollowTheirRules : (0 : Nat) < 32 ∧ (31 : Nat) < 32 := by decide

theorem witness_DirectReadCompletes : (31 : Nat) < 32 ∧ DirectAccess 0 (atEL .el3) ∧ DirectAccess 3 (atEL .el2) := by decide

/-- With EL2 and without. -/
theorem witness_DirectWriteCompletes :
    (31 : Nat) < 32 ∧ DirectAccess 3 (atEL .el2) ∧ (atEL .el2).cfg.haveEL2 = true ∧
    DirectAccess 0 (withoutEL2 (atEL .el3)) ∧ (withoutEL2 (atEL .el3)).cfg.haveEL2 = false := by decide

theorem witness_RedirectedReadCompletes :
    (31 : Nat) < 32 ∧ RedirectedAccess 0 (guest true true) ∧ RedirectedAccess 3 (guest true true) ∧
    (guest true true).cfg.nvMemCanFault = false := by decide

theorem witness_RedirectedWriteCompletes :
    (31 : Nat) < 32 ∧ RedirectedAccess 3 { faultingGuest with nvMemFaulting := false } ∧
    ({ faultingGuest with nvMemFaulting := false } : State).nvMemFaulting = false ∧
    ({ faultingGuest with nvMemFaulting := false } : State).nvmem.wf := by decide

/-- The frame statements' hypotheses: a direct and a redirected access of each direction. -/
theorem witness_ReadAccessorsFrame :
    (31 : Nat) < 32 ∧ (∃ u, exec (.accessor .read 0 31) (atEL .el2) = .next u) ∧
    ((guest true true).pstate.el = .el1 ∧ ∃ u, exec (.accessor .read 3 0) (guest true true) = .next u) :=
  ⟨by decide, ⟨_, rfl⟩, rfl, ⟨_, rfl⟩⟩

theorem witness_WriteAccessorsFrame :
    (31 : Nat) < 32 ∧ ((atEL .el2).pstate.el ≠ .el1 ∧ ∃ u, exec (.accessor .write 3 31) (atEL .el2) = .next u) ∧
    ((guest true true).pstate.el = .el1 ∧ ∃ u, exec (.accessor .write 0 0) (guest true true) = .next u) :=
  ⟨by decide, ⟨by decide, _, rfl⟩, rfl, ⟨_, rfl⟩⟩

theorem witness_RegisterWriteSetsRegisterAndMarks : (31 : Nat) < 32 ∧ DirectAccess 3 (atEL .el2) := by decide

/-- A register write, as ValueMarkIffNotLastReadNorZero, OrderMarkIffAp1rWritten, UpperHalfIsRes0 and
AArch32ViewSeesDirectWrites assume one. -/
theorem witness_ValueMarkIffNotLastReadNorZero :
    (31 : Nat) < 32 ∧ DirectAccess 0 (atEL .el2) ∧ (atEL .el2).cfg.haveEL2 = true ∧
    (atEL .el2).marks.unpredValue = false ∧ ∃ u, exec (.accessor .write 0 31) (atEL .el2) = .next u :=
  ⟨by decide, by decide, rfl, rfl, ⟨_, rfl⟩⟩

theorem witness_OrderMarkIffAp1rWritten :
    (0 : Nat) < 32 ∧ DirectAccess 3 (atEL .el3) ∧ (atEL .el3).cfg.haveEL2 = true ∧
    ∃ u, exec (.accessor .write 3 0) (atEL .el3) = .next u :=
  ⟨by decide, by decide, rfl, ⟨_, rfl⟩⟩

theorem witness_UpperHalfIsRes0 :
    (0 : Nat) < 32 ∧ DirectAccess 0 (withX 0 0x100000002 (atEL .el2)) ∧
    (withX 0 0x100000002 (atEL .el2)).cfg.haveEL2 = true ∧
    ∃ u, exec (.accessor .write 0 0) (withX 0 0x100000002 (atEL .el2)) = .next u :=
  ⟨by decide, by decide, rfl, ⟨_, rfl⟩⟩

theorem witness_AArch32ViewSeesDirectWrites :
    (3 : Nat) < 32 ∧ DirectAccess 2 (atEL .el2) ∧ (atEL .el2).cfg.haveEL2 = true ∧
    ∃ u, exec (.accessor .write 2 3) (atEL .el2) = .next u :=
  ⟨by decide, by decide, rfl, ⟨_, rfl⟩⟩

/-- At EL3, and at another level. -/
theorem witness_RegisterIsRes0WithoutEL2 :
    (31 : Nat) < 32 ∧ (withoutEL2 (atEL .el3)).cfg.haveEL2 = false ∧ (withoutEL2 (atEL .el3)).cfg.present = true ∧
    (withoutEL2 (atEL .el3)).cfg.implemented 0 = true ∧
    consistentControls (withoutEL2 (atEL .el3)).cfg .el3 false = true ∧
    (withoutEL2 (atEL .el3)).pstate.el = .el3 ∧ (withoutEL2 (atEL .el3)).sreEL3 = true ∧
    consistentControls (withoutEL2 (atEL .el1)).cfg .el1 false = true ∧ (withoutEL2 (atEL .el1)).pstate.el ≠ .el3 := by
  decide

theorem witness_DirectReadAfterWrite :
    (31 : Nat) < 32 ∧ DirectAccess 0 (atEL .el2) ∧ DirectAccess 3 (atEL .el2) ∧ (atEL .el2).cfg.haveEL2 = true ∧
    ∃ u, exec (.accessor .write 0 31) (atEL .el2) = .next u :=
  ⟨by decide, by decide, by decide, rfl, ⟨_, rfl⟩⟩

theorem witness_RedirectedReadAfterWrite :
    (31 : Nat) < 32 ∧ RedirectedAccess 0 (guest true true) ∧ RedirectedAccess 3 (guest true true) ∧
    (guest true true).nvmem.wf ∧ ∃ u, exec (.accessor .write 0 7) (guest true true) = .next u :=
  ⟨by decide, by decide, by decide, by decide, ⟨_, rfl⟩⟩

/-- The invariant holds of a state whose registers are not zero and whose last read values are set. -/
theorem witness_invariant : Invariant (withLastRead 0 0x5 (withAp0r 0 0x10001 (atEL .el2))) where
  controls := by decide
  res0 := by decide
  absent := by decide
  unread := by decide
  lastRes0 m w h := by
    have all : ∀ m : Fin 4, (withLastRead 0 0x5 (withAp0r 0 0x10001 (atEL .el2))).lastRead[m] =
        if m = 0 then some 0x5 else none := by decide
    rw [all m] at h
    split at h <;> cases h
    decide
  overlapMarked := by decide
  legacyMarked := by decide
  nvmemForm := by decide
  nvmemRange := by decide
  textForm := by decide

theorem witness_SaveThenRestoreIsUnmarked :
    ∃ s, (30 : Nat) < 31 ∧ Invariant s ∧ DirectAccess 0 s ∧ s.ap1rWritten = false ∧ ap0r 0 s = 0x10001 :=
  ⟨_, by decide, witness_invariant, by decide, rfl, by decide⟩

theorem witness_ZeroWriteClearsUnmarked :
    DirectAccess 0 (withAp0r 0 0xFFFFFFFF (atEL .el2)) ∧ (withAp0r 0 0xFFFFFFFF (atEL .el2)).cfg.haveEL2 = true := by decide

/-- The ends of R27's range: register 3, bit 31, of an implementation with seven bits. -/
theorem witness_LevelsAreTheBitsOfImplementedRegisters :
    resetConfig.implemented 3 = true ∧ apReg .seven 0xFF = 3 ∧ apBit .seven 0xFF = 31 ∧
    apReg .seven 0xFE = apReg .seven 0xFF ∧ apBit .seven 0xFE = apBit .seven 0xFF := by decide

/-- With the bit clear and with it set. -/
theorem witness_ActivateSetsTheBitOfItsLevel :
    vcpuifMayAct (atEL .el1) = true ∧ vcpuifMayAct (withAp0r 1 1 (atEL .el0)) = true ∧
    (ap0r (apReg .seven 0x40) (withAp0r 1 1 (atEL .el0))).getLsbD (apBit .seven 0x40).val = true := by decide

/-- With the bit set, with it clear, and with a register that is not implemented. -/
theorem witness_DropClearsOneBit :
    vcpuifMayAct (withAp0r 0 0x80000000 (atEL .el1)) = true ∧ (atEL .el1).cfg.implemented 0 = true ∧
    (ap0r 0 (withAp0r 0 0x80000000 (atEL .el1))).getLsbD 31 = true ∧ (ap0r 0 (atEL .el1)).getLsbD 31 = false ∧
    vcpuifMayAct (withPre .five (atEL .el1)) = true ∧ (withPre .five (atEL .el1)).cfg.implemented 1 = false := by decide

theorem witness_InterfaceActsAtGuestLevelsOnly :
    (∃ u, applyEvent (.activate0 0xFF) (atEL .el1) = .next u) ∧
    (∃ u, applyEvent (.drop0 0 0) (withAp0r 0 1 (atEL .el0)) = .next u) ∧
    (atEL .el2).pstate.el = .el2 ∧ (atEL .el3).pstate.el = .el3 ∧
    ({ atEL .el1 with el2Enabled := false } : State).el2Enabled = false ∧
    ({ atEL .el1 with vcpuifEnabled := false } : State).vcpuifEnabled = false :=
  ⟨⟨_, rfl⟩, ⟨_, rfl⟩, rfl, rfl, rfl, rfl⟩

theorem witness_NoOverlapOrLegacyMarkWhileEL2Disabled :
    (31 : Nat) < 32 ∧ RegExists 3 { atEL .el3 with el2Enabled := false } ∧ (atEL .el3).pstate.el = .el3 ∧
    (atEL .el3).sreEL3 = true ∧ ({ atEL .el3 with el2Enabled := false } : State).el2Enabled = false := by decide

/-- An overlap and a legacy virtual machine's register, left while EL2 was disabled. -/
theorem witness_EnablingEL2EvaluatesTheMarks :
    let s : State := { withAp0r 0 1 (atEL .el3) with el2Enabled := false, legacyVM := true, ap1r := #v[1, 0, 0, 0] }
    s.el2Enabled = false ∧ consistentControls s.cfg s.pstate.el true = true ∧ overlap s = true ∧ s.legacyVM = true ∧
    s.cfg.implemented 0 = true ∧ ap0r 0 s ≠ 0 := by decide

theorem witness_ResetClearsRegistersAndGhostState :
    ({ atEL .el2 with turns := [.env (.warmReset someLaunch), .pe] } : State).turns =
      .env (.warmReset someLaunch) :: [.pe] ∧
    ({ atEL .el2 with turns := [.env (.coldReset someLaunch)] } : State).turns = .env (.coldReset someLaunch) :: [] ∧
    consistentControls (atEL .el2).cfg someLaunch.pstate.el someLaunch.el2Enabled = true := by decide

theorem witness_TrapSyndromeIsBasePlusFields : (0 : Nat) < 32 ∧ (31 : Nat) < 32 := by decide

theorem witness_RaisedOutcomeEntersTheHandler : (composedPE (atEL .el1)).cfg.composed = true := by decide

/-- A raising step whose turn it is, of an `Undefined` and of an `NVMemFault`. -/
theorem witness_RaisingStepIsTerminalUncomposed :
    (let p := State.withFetchWord (atEL .el0) 32 0xD53CC800
     peTurn p = some p ∧ pcAligned p.pc = true ∧ decode (fetchWord p) = .instr (.mrsAp0r0 0) ∧
       exec (.mrsAp0r0 0) p = .fault (.undefined p.pc) ∧ p.cfg.composed = false) ∧
    (let p := State.withFetchWord faultingGuest 32 0xD51CC87F
     peTurn p = some p ∧ pcAligned p.pc = true ∧ decode (fetchWord p) = .instr (.msrAp0r3 31) ∧
       exec (.msrAp0r3 31) p = .fault (.nvMemFault p.pc)) :=
  ⟨⟨rfl, by decide, by decide, rfl, rfl⟩, rfl, by decide, by decide, rfl⟩

/-- From EL1 to EL2, and at EL3 itself. -/
theorem witness_ReturnUndoesEntry :
    (atEL .el1).pstate.el.rank ≤ ELx.el2.toEL.rank ∧
    consistentControls (atEL .el1).cfg (atEL .el1).pstate.el (atEL .el1).el2Enabled = true ∧
    (atEL .el3).pstate.el.rank ≤ ELx.el3.toEL.rank ∧
    consistentControls (atEL .el3).cfg (atEL .el3).pstate.el (atEL .el3).el2Enabled = true := by decide

theorem witness_HandlerWithoutSreTrapsAgain :
    let s : State := composedPE { atEL .el2 with sreEL2 := false }
    s.cfg.composed = true ∧ s.pstate.el = .el2 ∧ s.sreEL2 = false ∧ RegExists 0 s ∧ RegExists 3 s ∧
    ∃ u, deliverOutcome s (exec (.accessor .read 0 31) s) = .next u :=
  ⟨rfl, rfl, rfl, by decide, by decide, ⟨_, rfl⟩⟩

/-- A performed access, and a raised outcome, in the PE's turn. -/
theorem witness_StepRunsTheDecodedInstruction :
    (let p := State.withFetchWord (atEL .el2) 32 0xD53CC83F
     peTurn p = some p ∧ pcAligned p.pc = true ∧ decode (fetchWord p) = .instr (.mrsAp0r1 31) ∧
       ∃ u, exec (.mrsAp0r1 31) p = .next u) ∧
    (let p := State.withFetchWord (atEL .el0) 32 0xD53CC83F
     peTurn p = some p ∧ pcAligned p.pc = true ∧ decode (fetchWord p) = .instr (.mrsAp0r1 31) ∧
       ∃ f, exec (.mrsAp0r1 31) p = .fault f) :=
  ⟨⟨rfl, by decide, by decide, ⟨_, rfl⟩⟩, rfl, by decide, by decide, ⟨_, rfl⟩⟩

theorem witness_PlacedInstructionRunsNext :
    (Instr.msrAp0r3 31).wellFormed = true ∧ ({ State.reset with pc := 0xFFFFFFFFFFFFFFFF } : State).text.wf := by decide

/-- A step of the PE from a state that meets the invariant, whose turn list is empty. -/
theorem witness_StepKeepsTheInvariant : Invariant (placeWord 0xD53CC803#32 State.reset) ∧
    ∃ u, step (placeWord 0xD53CC803#32 State.reset) = .next u := by
  refine ⟨⟨?_, ?_, ?_, ?_, ?_, ?_, ?_, ?_, ?_, ?_⟩, ⟨_, rfl⟩⟩
  case refine_5 =>
    intro m w h
    have : ∀ m : Fin 4, (placeWord 0xD53CC803#32 State.reset).lastRead[m] = none := by decide
    rw [this m] at h
    cases h
  all_goals decide

theorem witness_MarksAreSticky :
    let s : State := { atEL .el1 with turns := [.env (.activate0 0x80)], ap1r := #v[0, 0, 1, 0] }
    (∃ u, step s = .next u ∧ u.marks.unpredOverlap = true) ∧ ∀ e, eventTurn s = some e → e.isReset = false := by
  refine ⟨⟨_, rfl, by decide⟩, ?_⟩
  intro e h
  cases h
  rfl

/-- A register changed by an `MSR`, and one changed by the interface. -/
theorem witness_RegistersChangeOnlyByTheirWriters :
    (∃ u, step (State.withFetchWord (withX 9 2 (atEL .el2)) 32 0xD51CC869) = .next u ∧
      ap0r 3 u ≠ ap0r 3 (State.withFetchWord (withX 9 2 (atEL .el2)) 32 0xD51CC869)) ∧
    ∃ u, step { atEL .el1 with turns := [.env (.activate0 0x80)] } = .next u ∧
      ap0r 2 u ≠ ap0r 2 { atEL .el1 with turns := [.env (.activate0 0x80)] } :=
  ⟨⟨_, rfl, by decide⟩, _, rfl, by decide⟩

theorem witness_ParametersAndTextNeverChange :
    ∃ u, step { atEL .el2 with turns := [.env (.coldReset someLaunch)] } = .next u := ⟨_, rfl⟩

/-- A guest level whose turn completes, and one whose turn does not. -/
theorem witness_GuestNeitherReachesNorLearnsTheRegisters :
    AtGuestLevel (State.withFetchWord (guest true true) 32 0xD51CC862) ∧
    (∃ u, peStep (State.withFetchWord (guest true true) 32 0xD51CC862) = .next u) ∧ AtGuestLevel (atEL .el0) :=
  ⟨by decide, ⟨_, rfl⟩, by decide⟩

theorem witness_LevelChangesOnlyByTakingAnException :
    ∃ u, peStep (State.withFetchWord (composedPE (guest false true)) 32 0xD53CC825) = .next u ∧
      u.pstate ≠ (State.withFetchWord (composedPE (guest false true)) 32 0xD53CC825).pstate :=
  ⟨_, rfl, by decide⟩

theorem witness_SlotBytesFollowTheByteOrder : (0 : Nat) < 8 ∧ (7 : Nat) < 8 ∧ Memory.wf [(0x480, 1#8)] := by decide

theorem witness_SlotOffsets : (0 : Fin 4).val < (1 : Fin 4).val ∧ (2 : Fin 4).val < (3 : Fin 4).val := by decide

theorem witness_HostStoreReachesTheGuestRead :
    (31 : Nat) < 32 ∧ RedirectedAccess 3 (guest true true) ∧ (guest true true).nvmem.wf ∧
    (guest true true).cfg.nvMemCanFault = false ∧ ∃ u, applyEvent (.nvMemStore 3 5) (guest true true) = .next u :=
  ⟨by decide, by decide, by decide, rfl, ⟨_, rfl⟩⟩

theorem witness_StoresKeepTheCanonicalForm : Memory.wf [(0x480, 1#8), (0x49F, 2#8)] := by decide

end Sys2Proof.Tests
end

section
/-! The parameters of the implementation and the program text (R4, R61): one lemma per operation a step is made of, put
together along the inversion lemmas `step_next`, `peStep_next` and `deliver_next`. -/

namespace Sys2Proof.Machine

/-- `u` has the parameters of the implementation (R4) and the program text (R61) of `s`. -/
abbrev SameParametersAndText (s u : State) : Prop := u.cfg = s.cfg ∧ u.text = s.text

theorem writeX_sameParametersAndText (t : Nat) (v : Word) (s : State) : SameParametersAndText s (writeX t v s) := by
  rw [writeX_frame]; exact ⟨rfl, rfl⟩

theorem setBank_sameParametersAndText (l : ELx) (b : ExcBank) (s : State) :
    SameParametersAndText s (setBank l b s) := by
  obtain ⟨b1, b2, b3, e⟩ := setBank_frame l b s
  rw [e]; exact ⟨rfl, rfl⟩

theorem enterException_sameParametersAndText (target : ELx) (ret : Word) (esr : BitVec 32) (s : State) :
    SameParametersAndText s (enterException target ret esr s) := by
  obtain ⟨b1, b2, b3, e⟩ := enterException_frame target ret esr s
  rw [e]; exact ⟨rfl, rfl⟩

theorem changeLegacyVM_sameParametersAndText (b : Bool) (s : State) :
    SameParametersAndText s (changeLegacyVM b s) := by
  unfold changeLegacyVM; split <;> exact ⟨rfl, rfl⟩

/-! ### The PE's turn -/

theorem exec_keepsParametersAndText {i : Instr} {s u : State} (h : exec i s = .next u) :
    SameParametersAndText s u := by
  obtain ⟨-, -, -, rfl⟩ | ⟨-, -, rfl⟩ | ⟨-, -, -, rfl⟩ | ⟨-, -, rfl⟩ := exec_next h
  · rw [readRedirected_eq]; exact ⟨rfl, rfl⟩
  · rw [readDirect_eq]; exact ⟨rfl, rfl⟩
  · rw [writeRedirected_eq]; exact ⟨rfl, rfl⟩
  · rw [writeDirect_eq]; exact ⟨rfl, rfl⟩

theorem deliver_keepsParametersAndText {s u : State} {f : Fault} (h : deliver s f = .next u) :
    SameParametersAndText s u := by
  obtain ⟨-, ⟨ret, -, rfl⟩ | ⟨target, code, ret, esr, -, rfl⟩⟩ := deliver_next h
  · exact enterException_sameParametersAndText _ _ _ s
  · exact enterException_sameParametersAndText _ _ _ s

theorem peStep_keepsParametersAndText {s u : State} (h : peStep s = .next u) : SameParametersAndText s u := by
  obtain ⟨-, i, -, hi⟩ := peStep_next h
  obtain he | ⟨f, -, hf⟩ := deliverOutcome_next hi
  · exact exec_keepsParametersAndText he
  · exact deliver_keepsParametersAndText hf

/-! ### An event's turn -/

theorem settleMarks_setAp0r_sameParametersAndText (n : Fin 4) (v : Word) (s : State) :
    SameParametersAndText s (settleMarks n (setAp0r n v s)) := by
  rw [settleMarks_setAp0r]; exact ⟨rfl, rfl⟩

theorem activate0_keepsParametersAndText {p : Byte} {s u : State} (h : activate0 p s = .next u) :
    SameParametersAndText s u := by
  obtain ⟨-, e⟩ | ⟨-, e⟩ := activate0_cases p s <;> rw [e] at h <;> cases h
  exact settleMarks_setAp0r_sameParametersAndText _ _ s

theorem drop0_keepsParametersAndText {n : Fin 4} {x : Fin 32} {s u : State} (h : drop0 n x s = .next u) :
    SameParametersAndText s u := by
  obtain ⟨-, -, -, e⟩ | ⟨-, -, e⟩ | ⟨-, e⟩ := drop0_cases n x s <;> rw [e] at h <;> cases h
  exact settleMarks_setAp0r_sameParametersAndText _ _ s

/-- What a reset does, where it is one (R140). -/
theorem resetEvent_next {l : Launch} {s u : State} (h : resetEvent l s = .next u) :
    consistentControls s.cfg l.pstate.el l.el2Enabled = true ∧ u = launchState l s := by
  unfold resetEvent at h
  split at h
  · exact ⟨‹_›, (Host.Outcome.next.inj h).symm⟩
  · cases h

/-- What a change of `EL2Enabled` does, where it is one (D19). -/
theorem changeEL2Enabled_next {b : Bool} {s u : State} (h : changeEL2Enabled b s = .next u) :
    consistentControls s.cfg s.pstate.el b = true ∧
      u = if b && !s.el2Enabled then reevaluate { s with el2Enabled := b } else { s with el2Enabled := b } := by
  unfold changeEL2Enabled at h
  split at h
  · exact ⟨‹_›, (Host.Outcome.next.inj h).symm⟩
  · cases h

theorem changeEL2Enabled_keepsParametersAndText {b : Bool} {s u : State} (h : changeEL2Enabled b s = .next u) :
    SameParametersAndText s u := by
  obtain ⟨-, rfl⟩ := changeEL2Enabled_next h
  split <;> exact ⟨rfl, rfl⟩

/-- What a change of `PSTATE` does, where it is one (R33). -/
theorem changePState_next {p : PState} {s u : State} (h : changePState p s = .next u) :
    consistentControls s.cfg p.el s.el2Enabled = true ∧ u = s.setPState p := by
  unfold changePState at h
  split at h
  · exact ⟨‹_›, (Host.Outcome.next.inj h).symm⟩
  · cases h

theorem applyEvent_keepsParametersAndText {e : Event} {s u : State} (h : applyEvent e s = .next u) :
    SameParametersAndText s u := by
  cases e with
  | activate0 p => exact activate0_keepsParametersAndText h
  | drop0 n x => exact drop0_keepsParametersAndText h
  | warmReset l | coldReset l => obtain ⟨-, rfl⟩ := resetEvent_next h; exact ⟨rfl, rfl⟩
  | setEL2Enabled b => exact changeEL2Enabled_keepsParametersAndText h
  | setEL l | setPState p => obtain ⟨-, rfl⟩ := changePState_next h; exact ⟨rfl, rfl⟩
  | eret => obtain ⟨l, -, -, -, rfl⟩ := exceptionReturn_next h; exact ⟨rfl, rfl⟩
  | setLegacyVM b => cases h; exact changeLegacyVM_sameParametersAndText b s
  | setX t v => cases h; exact writeX_sameParametersAndText t.val v s
  | setVbar l v | setElr l v | setSpsr l v => cases h; exact setBank_sameParametersAndText l _ s
  | newRestoreSequence | ap1rWrite | ap1rChange | setNV | setNV2 | setTGE | setSreEL2 | setSreEL3
  | setVcpuifEnabled | setNvMemFaulting | nvMemStore | setPc => cases h; exact ⟨rfl, rfl⟩

/-- Settles O50: the PE's turn sees the state but for its list of turns, and so does an event. -/
theorem parametersAndTextNeverChange : Obligations.ParametersAndTextNeverChange := by
  unfold Obligations.ParametersAndTextNeverChange
  intro s u h
  obtain ⟨p, hp, -, hu⟩ | ⟨e, rest, -, -, -, hu⟩ := step_next h
  · obtain ⟨ts, rfl⟩ := peTurn_frame hp
    simpa [SameParametersAndText] using peStep_keepsParametersAndText hu
  · simpa [SameParametersAndText] using applyEvent_keepsParametersAndText hu

end Sys2Proof.Machine
end

section
/-! Which registers exist (R3). -/

namespace Sys2Proof

theorem Config.implemented_iff (c : Config) (m : Fin 4) :
    c.implemented m = true ↔ m = 0 ∨ (m = 1 ∧ 6 ≤ c.pre.bits) ∨ ((m = 2 ∨ m = 3) ∧ 7 ≤ c.pre.bits) := by
  simp [Config.implemented, or_assoc]

/-- How many registers a number of preemption bits gives (R3, and the row "number of registers" of R4). -/
def Pre.registerCount : Pre → Nat
  | .five => 1
  | .six => 2
  | .seven => 4

/-- The registers that exist are the first `registerCount`. -/
theorem Config.implemented_iff_lt_registerCount (c : Config) (m : Fin 4) :
    c.implemented m = true ↔ m.val < c.pre.registerCount := by
  rw [Config.implemented_iff]
  generalize c.pre = p
  cases p <;> revert m <;> decide

/-- Settles O7, from the count of registers each number of preemption bits gives. -/
theorem preemptionBitsGiveRegisters : Obligations.PreemptionBitsGiveRegisters := by
  unfold Obligations.PreemptionBitsGiveRegisters
  intro c m
  have hcount := c.implemented_iff_lt_registerCount m
  refine ⟨c.implemented_iff m, ?_, ?_, ?_⟩ <;> intro hpre <;> rw [hpre] at hcount <;> exact hcount

end Sys2Proof
end

section
/-! The step of the PE's turn at a word that decodes (R9, R58, R116). -/

namespace Sys2Proof.Machine

/-- The PE's turn at an aligned pc whose word decodes is `exec`, a raised outcome handed on. -/
theorem peStep_of_decode {p : State} {i : Instr} (ha : pcAligned p.pc = true) (hd : decode (fetchWord p) = .instr i) :
    peStep p = deliverOutcome p (exec i p) := by
  unfold peStep; rw [if_pos ha, hd]

theorem step_of_decode {s p : State} {i : Instr} (hp : peTurn s = some p) (ha : pcAligned p.pc = true)
    (hd : decode (fetchWord p) = .instr i) : step s = deliverOutcome p (exec i p) :=
  (step_of_peTurn hp).trans (peStep_of_decode ha hd)

/-- Settles O44: `deliverOutcome` hands on a next state and a refusal as they are, and a fault to `deliver`. -/
theorem stepRunsTheDecodedInstruction : Obligations.StepRunsTheDecodedInstruction := by
  unfold Obligations.StepRunsTheDecodedInstruction
  intro s p i hp ha hd
  have hstep := step_of_decode hp ha hd
  refine ⟨fun u hu => ?_, fun f hf => ?_, fun r hr => ?_⟩
  · rw [hstep, hu]; rfl
  · rw [hstep, hf]; rfl
  · rw [hstep, hr]; rfl

end Sys2Proof.Machine
end

section
/-! Every step keeps the invariant of the machine: one preservation lemma per operation a step is made of, each naming the
fields of `Invariant` the operation touches. -/

namespace Sys2Proof.Machine

/-! ### The control inputs (R33) -/

theorem consistentControls_iff (c : Config) (l : EL) (b : Bool) :
    consistentControls c l b = true ↔
      (l = .el2 → c.haveEL2 = true ∧ b = true) ∧ (l = .el3 → c.haveEL3 = true) ∧ (b = true → c.haveEL2 = true) := by
  cases l <;> cases b <;> simp [consistentControls]

/-- Consistent inputs allow the level an `Undefined` is taken to (R110). -/
theorem consistentControls_undefinedTarget {s : State}
    (h : consistentControls s.cfg s.pstate.el s.el2Enabled = true) :
    consistentControls s.cfg (undefinedTarget s).toEL s.el2Enabled = true := by
  rw [consistentControls_iff] at h ⊢
  unfold undefinedTarget
  cases hl : s.pstate.el with
  | el0 =>
    obtain ⟨-, -, h2⟩ := h
    dsimp only
    split
    next htge =>
      have he : s.el2Enabled = true := (Bool.and_eq_true_iff.1 htge).1
      exact ⟨fun _ => ⟨h2 he, he⟩, nofun, h2⟩
    next => exact ⟨nofun, nofun, h2⟩
  | el1 | el2 | el3 => simpa [hl, ELx.toEL] using h

/-- Consistent inputs allow the level an access is trapped to (R112, X6 to X8). -/
theorem consistentControls_of_trap {m : Fin 4} {target : ELx} {s : State} (ht : accessCheck m s = .trap target)
    (h : consistentControls s.cfg s.pstate.el s.el2Enabled = true) :
    consistentControls s.cfg target.toEL s.el2Enabled = true := by
  obtain ⟨-, ⟨rfl, -, he, -⟩ | ⟨rfl, hl, -⟩ | ⟨rfl, hl, -⟩⟩ := (accessCheck_eq_trap m target s).1 ht
  · rw [consistentControls_iff] at h ⊢
    simp [ELx.toEL, he, h.2.2 he]
  · rwa [hl] at h
  · rwa [hl] at h

/-! ### Registers -/

theorem holdsState_iff (m : Fin 4) (s : State) :
    holdsState m s.cfg = true ↔ RegExists m s ∧ s.cfg.haveEL2 = true := by
  simp [holdsState, RegExists]

theorem highHalf_directRead (m : Fin 4) (s : State) : highHalf (directRead m s) = 0 := by
  unfold directRead ap0r
  split
  · exact highHalf_keepLow _
  · rfl

theorem Invariant.setTurns {s : State} (h : Invariant s) (ts : List Turn) : Invariant (s.setTurns ts) := { h with }

theorem Invariant.setPc {s : State} (h : Invariant s) (v : Word) : Invariant (s.setPc v) := { h with }

theorem Invariant.advancePc {s : State} (h : Invariant s) : Invariant (advancePc s) := h.setPc _

theorem Invariant.writeX {s : State} (h : Invariant s) (t : Nat) (v : Word) : Invariant (writeX t v s) := by
  rw [writeX_frame]; exact { h with }

theorem Invariant.setBank {s : State} (h : Invariant s) (l : ELx) (b : ExcBank) : Invariant (setBank l b s) := by
  obtain ⟨b1, b2, b3, e⟩ := setBank_frame l b s
  rw [e]; exact { h with }

theorem Invariant.setPState {s : State} (h : Invariant s) {p : PState}
    (hc : consistentControls s.cfg p.el s.el2Enabled = true) : Invariant (s.setPState p) := { h with controls := hc }

/-- The value a direct read records is the register's, and the register exists. -/
theorem Invariant.setLastRead {s : State} (h : Invariant s) {m : Fin 4} (hm : RegExists m s) {v : Word}
    (hv : highHalf v = 0) : Invariant (setLastRead m v s) where
  __ := h
  unread n (hn : (s.cfg.present && s.cfg.implemented n) = false) := by
    have hne : n ≠ m := by
      rintro rfl
      simp [hm.1, hm.2] at hn
    rw [getElem_setLastRead, if_neg hne]
    exact h.unread n hn
  lastRes0 n w hw := by
    rw [getElem_setLastRead] at hw
    split at hw
    · cases hw; exact hv
    · exact h.lastRes0 n w hw

theorem Invariant.nvMemWrite {s : State} (h : Invariant s) (m : Fin 4) (v : Word) :
    Invariant (nvMemWrite (nvMemOffset m) v s) where
  __ := h
  nvmemForm := storeSlot_wf _ _ _ h.nvmemForm
  nvmemRange c hc := by
    obtain hin | hold := mem_storeSlot hc
    · have := nvMemOffset_range m
      omega
    · exact h.nvmemRange c hold

/-! ### Marks -/

theorem settleMarks_setAp0r_unpredOverlap (m : Fin 4) (v : Word) (s : State) :
    (settleMarks m (setAp0r m v s)).marks.unpredOverlap =
      (s.marks.unpredOverlap || (s.el2Enabled && overlap (setAp0r m v s))) := rfl

theorem settleMarks_setAp0r_unpredLegacy (m : Fin 4) (v : Word) (s : State) :
    (settleMarks m (setAp0r m v s)).marks.unpredLegacy =
      (s.marks.unpredLegacy || (s.el2Enabled && s.legacyVM && keepLow v != 0)) := by
  rw [settleMarks_setAp0r]

theorem reevaluate_unpredOverlap (s : State) :
    (reevaluate s).marks.unpredOverlap = (s.marks.unpredOverlap || (s.el2Enabled && overlap s)) := rfl

theorem reevaluate_unpredLegacy (s : State) :
    (reevaluate s).marks.unpredLegacy = (s.marks.unpredLegacy || (s.el2Enabled && s.legacyVM && anyActive s)) := rfl

/-- Evaluating both conditions leaves no overlap unmarked while `EL2Enabled` (R35). -/
theorem reevaluate_marksOverlap {s : State} (he : (reevaluate s).el2Enabled = true)
    (ho : overlap (reevaluate s) = true) : (reevaluate s).marks.unpredOverlap = true := by
  have he : s.el2Enabled = true := he
  have ho : overlap s = true := ho
  simp [reevaluate_unpredOverlap, he, ho]

/-- Evaluating both conditions leaves no legacy breach unmarked while `EL2Enabled` (R31). -/
theorem reevaluate_marksLegacy {s : State} (he : (reevaluate s).el2Enabled = true)
    (hl : (reevaluate s).legacyVM = true) (ha : anyActive (reevaluate s) = true) :
    (reevaluate s).marks.unpredLegacy = true := by
  have he : s.el2Enabled = true := he
  have hl : s.legacyVM = true := hl
  have ha : anyActive s = true := ha
  simp [reevaluate_unpredLegacy, he, hl, ha]

theorem Invariant.markWrite {s : State} (h : Invariant s) (m : Fin 4) (v : Word) : Invariant (markWrite m v s) := { h with }

theorem anyActive_setAp0r {m : Fin 4} {v : Word} {s : State} (h : anyActive (setAp0r m v s) = true) :
    keepLow v ≠ 0 ∨ anyActive s = true := by
  obtain ⟨n, hi, ha⟩ := (anyActive_iff _).1 h
  rw [ap0r_setAp0r] at ha
  split at ha
  · exact .inl ha
  · exact .inr ((anyActive_iff s).2 ⟨n, hi, ha⟩)

/-- Writing a register that holds state and evaluating both conditions (R101, R122, R123). Where another register is
active the legacy breach was marked before. -/
theorem Invariant.settleMarks_setAp0r {s : State} (h : Invariant s) {m : Fin 4} (hm : holdsState m s.cfg = true)
    (v : Word) : Invariant (settleMarks m (setAp0r m v s)) where
  __ := h
  res0 n := by
    change highHalf (setAp0r m v s).ap0r[n] = 0
    rw [getElem_setAp0r]
    split
    · exact highHalf_keepLow v
    · exact h.res0 n
  absent n (hn : holdsState n s.cfg = false) := by
    have hne : n ≠ m := by
      rintro rfl
      simp [hm] at hn
    change (setAp0r m v s).ap0r[n] = 0
    rw [getElem_setAp0r, if_neg hne]
    exact h.absent n hn
  overlapMarked (he : s.el2Enabled = true) (ho : overlap (setAp0r m v s) = true) := by
    simp [settleMarks_setAp0r_unpredOverlap, he, ho]
  legacyMarked (he : s.el2Enabled = true) (hl : s.legacyVM = true) (ha : anyActive (setAp0r m v s) = true) := by
    rw [settleMarks_setAp0r_unpredLegacy]
    obtain hv | hs := anyActive_setAp0r ha
    · simpa [he, hl] using Or.inr hv
    · simp [h.legacyMarked he hl hs]

theorem Invariant.regWrite {s : State} (h : Invariant s) {m : Fin 4} (hm : RegExists m s) (v : Word) :
    Invariant (regWrite m v s) := by
  unfold Machine.regWrite
  split
  next h2 => exact (h.markWrite m v).settleMarks_setAp0r ((holdsState_iff m s).2 ⟨hm, h2⟩) v
  next => exact h

/-! ### Events -/

theorem Invariant.changeAp1r {s : State} (h : Invariant s) (n : Fin 4) (v : Word) : Invariant (changeAp1r n v s) :=
  { h with overlapMarked := reevaluate_marksOverlap, legacyMarked := reevaluate_marksLegacy }

theorem Invariant.writeAp1r {s : State} (h : Invariant s) (n : Fin 4) (v : Word) : Invariant (writeAp1r n v s) :=
  Invariant.changeAp1r (s := { s with ap1rWritten := true }) { h with } n v

theorem Invariant.changeLegacyVM {s : State} (h : Invariant s) (b : Bool) : Invariant (changeLegacyVM b s) := by
  unfold Machine.changeLegacyVM
  split
  next => exact { h with overlapMarked := reevaluate_marksOverlap, legacyMarked := reevaluate_marksLegacy }
  next hb =>
    refine { h with legacyMarked := fun he (hl : b = true) => h.legacyMarked he ?_ }
    simpa [hl] using hb

theorem Invariant.changeEL2Enabled {s u : State} {b : Bool} (h : Invariant s) (hu : changeEL2Enabled b s = .next u) :
    Invariant u := by
  obtain ⟨hc, rfl⟩ := changeEL2Enabled_next hu
  split
  next => exact { h with
    controls := hc, overlapMarked := reevaluate_marksOverlap, legacyMarked := reevaluate_marksLegacy }
  next hb =>
    have hold : b = true → s.el2Enabled = true := by rintro rfl; simpa using hb
    exact { h with
      controls := hc
      overlapMarked := fun he => h.overlapMarked (hold he)
      legacyMarked := fun he => h.legacyMarked (hold he) }

/-- While the virtual CPU interface may act, every implemented register holds state: EL2 is enabled, so it exists. -/
theorem Invariant.holdsState_of_mayAct {s : State} (h : Invariant s) (hact : vcpuifMayAct s = true) {m : Fin 4}
    (hi : s.cfg.implemented m = true) : holdsState m s.cfg = true := by
  obtain ⟨hp, he, -⟩ := (vcpuifMayAct_iff s).1 hact
  obtain ⟨-, -, h2⟩ := (consistentControls_iff _ _ _).1 h.controls
  exact (holdsState_iff m s).2 ⟨⟨hp, hi⟩, h2 he⟩

theorem Invariant.activate0 {s u : State} {p : Byte} (h : Invariant s) (hu : activate0 p s = .next u) : Invariant u := by
  obtain ⟨hact, e⟩ | ⟨-, e⟩ := activate0_cases p s <;> rw [e] at hu <;> cases hu
  exact h.settleMarks_setAp0r (h.holdsState_of_mayAct hact (apReg_implemented s.cfg p)) _

theorem Invariant.drop0 {s u : State} {n : Fin 4} {x : Fin 32} (h : Invariant s) (hu : drop0 n x s = .next u) :
    Invariant u := by
  obtain ⟨hact, hi, -, e⟩ | ⟨-, -, e⟩ | ⟨-, e⟩ := drop0_cases n x s <;> rw [e] at hu <;> cases hu
  exact h.settleMarks_setAp0r (h.holdsState_of_mayAct hact hi) _

/-- A state whose registers are zero and unread has nothing to be marked: it meets the invariant once its control
inputs are consistent and its memories in form. -/
theorem Invariant.of_cleared {s : State} (hc : consistentControls s.cfg s.pstate.el s.el2Enabled = true)
    (h0 : s.ap0r = #v[0, 0, 0, 0]) (hl : s.lastRead = #v[none, none, none, none]) (hw : s.nvmem.wf)
    (hr : ∀ c ∈ s.nvmem, 0x480 ≤ c.1 ∧ c.1 < 0x4A0) (ht : s.text.wf) : Invariant s := by
  have hzero : ∀ m : Fin 4, s.ap0r[m] = 0 := by rw [h0]; decide
  have hnone : ∀ m : Fin 4, s.lastRead[m] = none := by rw [hl]; decide
  have hread : ∀ m : Fin 4, Machine.ap0r m s = 0 := fun m => by rw [Machine.ap0r, hzero m, keepLow_zero]
  exact {
    controls := hc
    res0 := fun m => by rw [hzero m]; rfl
    absent := fun m _ => hzero m
    unread := fun m _ => hnone m
    lastRes0 := fun m w h => by rw [hnone m] at h; cases h
    overlapMarked := fun _ ho => by
      obtain ⟨n, -, hne⟩ := (overlap_iff s).1 ho
      simp [hread n] at hne
    legacyMarked := fun _ _ ha => by
      obtain ⟨n, -, hne⟩ := (anyActive_iff s).1 ha
      exact absurd (hread n) hne
    nvmemForm := hw
    nvmemRange := hr
    textForm := ht }

theorem Invariant.resetEvent {s u : State} {l : Launch} (h : Invariant s) (hu : resetEvent l s = .next u) :
    Invariant u := by
  obtain ⟨hc, rfl⟩ := resetEvent_next hu
  exact .of_cleared hc rfl rfl (slotMemory_wf _ _) (fun _ => mem_slotMemory) h.textForm

theorem Invariant.changePState {s u : State} {p : PState} (h : Invariant s) (hu : changePState p s = .next u) :
    Invariant u := by
  obtain ⟨hc, rfl⟩ := changePState_next hu
  exact h.setPState hc

theorem Invariant.exceptionReturn {s u : State} (h : Invariant s) (hu : exceptionReturn s = .next u) : Invariant u := by
  obtain ⟨l, -, -, hc, rfl⟩ := exceptionReturn_next hu
  exact { h with controls := hc }

theorem Invariant.applyEvent {s u : State} {e : Event} (h : Invariant s) (hu : applyEvent e s = .next u) :
    Invariant u := by
  cases e with
  | activate0 p => exact h.activate0 hu
  | drop0 n x => exact h.drop0 hu
  | warmReset l | coldReset l => exact h.resetEvent hu
  | setEL2Enabled b => exact h.changeEL2Enabled hu
  | setEL l | setPState p => exact h.changePState hu
  | eret => exact h.exceptionReturn hu
  | setLegacyVM b => cases hu; exact h.changeLegacyVM b
  | ap1rWrite n v => cases hu; exact h.writeAp1r n v
  | ap1rChange n v => cases hu; exact h.changeAp1r n v
  | nvMemStore m v => cases hu; exact h.nvMemWrite m v
  | setX t v => cases hu; exact h.writeX t.val v
  | setVbar l v | setElr l v | setSpsr l v => cases hu; exact h.setBank l _
  | newRestoreSequence | setNV | setNV2 | setTGE | setSreEL2 | setSreEL3 | setVcpuifEnabled | setNvMemFaulting
  | setPc => cases hu; exact { h with }

/-! ### The PE's turn -/

theorem Invariant.exec {s u : State} {i : Instr} (h : Invariant s) (hu : exec i s = .next u) : Invariant u := by
  obtain ⟨-, -, -, rfl⟩ | ⟨-, ha, rfl⟩ | ⟨-, -, -, rfl⟩ | ⟨-, ha, rfl⟩ := exec_next hu
  · exact (h.writeX _ _).advancePc
  · have hm := ((accessCheck_eq_direct _ s).1 ha).1
    rw [readDirect]
    exact ((h.writeX _ _).setLastRead (by rwa [writeX_frame]) (highHalf_directRead _ s)).advancePc
  · exact (h.nvMemWrite _ _).advancePc
  · have hm := ((accessCheck_eq_direct _ s).1 ha).1
    exact (h.regWrite hm _).advancePc

theorem Invariant.enterException {s : State} (h : Invariant s) {target : ELx}
    (hc : consistentControls s.cfg target.toEL s.el2Enabled = true) (ret : Word) (esr : BitVec 32) :
    Invariant (enterException target ret esr s) := by
  obtain ⟨b1, b2, b3, e⟩ := enterException_frame target ret esr s
  rw [e]; exact { h with controls := hc }

theorem Invariant.deliver {s u : State} {i : Instr} {f : Fault} (h : Invariant s) (hf : Machine.exec i s = .fault f)
    (hu : deliver s f = .next u) : Invariant u := by
  obtain ⟨-, ⟨ret, -, rfl⟩ | ⟨target, code, ret, esr, rfl, rfl⟩⟩ := deliver_next hu
  · exact h.enterException (consistentControls_undefinedTarget h.controls) _ _
  · obtain ⟨-, e⟩ | ⟨_, ht, e⟩ | ⟨-, e⟩ := exec_fault hf <;> cases e
    exact h.enterException (consistentControls_of_trap ht h.controls) _ _

theorem Invariant.peStep {s u : State} (h : Invariant s) (hu : peStep s = .next u) : Invariant u := by
  obtain ⟨-, i, -, hi⟩ := peStep_next hu
  obtain he | ⟨f, hf, hd⟩ := deliverOutcome_next hi
  · exact h.exec he
  · exact h.deliver hf hd

/-- Settles O47: the PE's turn and an event's see a state that meets the invariant, since the list of turns is no part
of it. -/
theorem stepKeepsTheInvariant : Obligations.StepKeepsTheInvariant := by
  unfold Obligations.StepKeepsTheInvariant
  intro s u h hu
  obtain ⟨p, hp, -, hpe⟩ | ⟨e, rest, -, -, -, he⟩ := step_next hu
  · obtain ⟨ts, rfl⟩ := peTurn_frame hp
    exact (h.setTurns ts).peStep hpe
  · exact (h.setTurns rest).applyEvent he

/-- Settles O46: after reset the registers are zero and unread, and both memories empty. -/
theorem invariantHoldsAfterReset : Obligations.InvariantHoldsAfterReset := by
  unfold Obligations.InvariantHoldsAfterReset
  exact .of_cleared rfl rfl rfl (by decide) (by decide) (by decide)

end Sys2Proof.Machine
end

section
/-! Who writes a register, and that marks only rise (R23, R37): what the PE's turn and an event's do to the registers and
the marks is said once, and both claims about every step are read off it. -/

namespace Sys2Proof.Machine

/-! ### Marks rise -/

theorem Marks.le_iff (k k' : Marks) :
    k.le k' = true ↔ (k.unpredValue = true → k'.unpredValue = true) ∧ (k.unpredOrder = true → k'.unpredOrder = true) ∧
      (k.unpredOverlap = true → k'.unpredOverlap = true) ∧ (k.unpredLegacy = true → k'.unpredLegacy = true) ∧
      (k.refusedRes0 = true → k'.refusedRes0 = true) := by
  simp [Marks.le, Bool.not_eq_true, imp_iff_not_or, and_assoc]

theorem Marks.le_refl (k : Marks) : k.le k = true := by simp [Marks.le_iff]

theorem reevaluate_marks_le (s : State) : s.marks.le (reevaluate s).marks = true := by
  simp +contextual [reevaluate_eq, Marks.le_iff]

theorem settleMarks_setAp0r_marks_le (n : Fin 4) (v : Word) (s : State) :
    s.marks.le (settleMarks n (setAp0r n v s)).marks = true := by
  simp +contextual [settleMarks_setAp0r, Marks.le_iff]

theorem regWrite_marks_le (m : Fin 4) (v : Word) (s : State) : s.marks.le (regWrite m v s).marks = true := by
  cases h2 : s.cfg.haveEL2 with
  | true => simp +contextual [regWrite_marks m v h2, Marks.le_iff]
  | false => rw [regWrite_of_noEL2 m v h2]; exact s.marks.le_refl

/-! ### A register write reaches one register -/

theorem ap0r_regWrite_of_ne {m n : Fin 4} (hn : n ≠ m) (v : Word) (s : State) :
    ap0r n (regWrite m v s) = ap0r n s := by
  cases h2 : s.cfg.haveEL2 with
  | true =>
    have hset : ap0r n (regWrite m v s) = ap0r n (setAp0r m v s) := ap0r_congr (regWrite_ap0r m v h2) n
    rw [hset, ap0r_setAp0r, if_neg hn]
  | false => rw [regWrite_of_noEL2 m v h2]

theorem ap0r_settleMarks_setAp0r_of_ne {m n : Fin 4} (hn : n ≠ m) (v : Word) (s : State) :
    ap0r n (settleMarks m (setAp0r m v s)) = ap0r n s := by
  have hset : ap0r n (settleMarks m (setAp0r m v s)) = ap0r n (setAp0r m v s) := ap0r_congr rfl n
  rw [hset, ap0r_setAp0r, if_neg hn]

/-! ### What a turn does to the registers and the marks -/

/-- `u` has the registers of `s`, and every mark of `s`. -/
abbrev KeepsRegistersAndMarks (s u : State) : Prop := u.ap0r = s.ap0r ∧ s.marks.le u.marks = true

theorem KeepsRegistersAndMarks.of_eq {s u : State} (h0 : u.ap0r = s.ap0r) (hk : u.marks = s.marks) :
    KeepsRegistersAndMarks s u := ⟨h0, hk ▸ s.marks.le_refl⟩

theorem exec_registers {i : Instr} {s u : State} (h : exec i s = .next u) :
    (i.dir = .write ∧ DirectAccess i.reg s ∧ u = writeDirect i.reg i.rt s) ∨ KeepsRegistersAndMarks s u := by
  obtain ⟨-, -, -, rfl⟩ | ⟨-, -, rfl⟩ | ⟨-, -, -, rfl⟩ | ⟨hd, ha, rfl⟩ := exec_next h
  · rw [readRedirected_eq]; exact .inr (.of_eq rfl rfl)
  · rw [readDirect_eq]; exact .inr (.of_eq rfl rfl)
  · rw [writeRedirected_eq]; exact .inr (.of_eq rfl rfl)
  · exact .inl ⟨hd, (accessCheck_eq_direct _ s).1 ha, rfl⟩

theorem enterException_keepsRegistersAndMarks (target : ELx) (ret : Word) (esr : BitVec 32) (s : State) :
    KeepsRegistersAndMarks s (enterException target ret esr s) := by
  obtain ⟨b1, b2, b3, e⟩ := enterException_frame target ret esr s
  rw [e]; exact .of_eq rfl rfl

theorem deliver_keepsRegistersAndMarks {s u : State} {f : Fault} (h : deliver s f = .next u) :
    KeepsRegistersAndMarks s u := by
  obtain ⟨-, ⟨ret, -, rfl⟩ | ⟨target, code, ret, esr, -, rfl⟩⟩ := deliver_next h
  · exact enterException_keepsRegistersAndMarks _ _ _ s
  · exact enterException_keepsRegistersAndMarks _ _ _ s

/-- The PE's turn: a direct `MSR`, or nothing is done to the registers. -/
theorem peStep_registers {s u : State} (h : peStep s = .next u) :
    (∃ m t, decode (fetchWord s) = .instr (.accessor .write m t) ∧ DirectAccess m s ∧ u = writeDirect m t s) ∨
    KeepsRegistersAndMarks s u := by
  obtain ⟨-, i, hi, ho⟩ := peStep_next h
  obtain he | ⟨f, -, hf⟩ := deliverOutcome_next ho
  · obtain ⟨hd, ha, rfl⟩ | hk := exec_registers he
    · rw [← accessor_fields i, hd] at hi
      exact .inl ⟨i.reg, i.rt, hi, ha, rfl⟩
    · exact .inr hk
  · exact .inr (deliver_keepsRegistersAndMarks hf)

theorem reevaluate_keepsRegistersAndMarks (s : State) : KeepsRegistersAndMarks s (reevaluate s) :=
  ⟨rfl, reevaluate_marks_le s⟩

theorem changeLegacyVM_keepsRegistersAndMarks (b : Bool) (s : State) :
    KeepsRegistersAndMarks s (changeLegacyVM b s) := by
  unfold changeLegacyVM
  split
  · exact reevaluate_keepsRegistersAndMarks { s with legacyVM := b }
  · exact .of_eq rfl rfl

theorem changeEL2Enabled_keepsRegistersAndMarks {b : Bool} {s u : State} (h : changeEL2Enabled b s = .next u) :
    KeepsRegistersAndMarks s u := by
  obtain ⟨-, rfl⟩ := changeEL2Enabled_next h
  split
  · exact reevaluate_keepsRegistersAndMarks { s with el2Enabled := b }
  · exact .of_eq rfl rfl

theorem writeX_keepsRegistersAndMarks (t : Nat) (v : Word) (s : State) : KeepsRegistersAndMarks s (writeX t v s) := by
  rw [writeX_frame]; exact .of_eq rfl rfl

theorem setBank_keepsRegistersAndMarks (l : ELx) (b : ExcBank) (s : State) :
    KeepsRegistersAndMarks s (setBank l b s) := by
  obtain ⟨b1, b2, b3, e⟩ := setBank_frame l b s
  rw [e]; exact .of_eq rfl rfl

/-- An event that writes register `n`: one of the two of the virtual CPU interface (R122, R123). -/
def Event.ActsOn (e : Event) (n : Fin 4) (c : Config) : Prop :=
  (∃ p, e = .activate0 p ∧ apReg c.pre p = n) ∨ ∃ x, e = .drop0 n x

/-- An event's turn: the interface's, a reset, or nothing is done to the registers. -/
theorem applyEvent_registers {e : Event} {s u : State} (h : applyEvent e s = .next u) :
    (∃ n v, e.ActsOn n s.cfg ∧ vcpuifMayAct s = true ∧ u = settleMarks n (setAp0r n v s)) ∨
    e.isReset = true ∨ KeepsRegistersAndMarks s u := by
  cases e with
  | activate0 p =>
    obtain ⟨hact, he⟩ | ⟨-, he⟩ := activate0_cases p s <;> rw [applyEvent, he] at h <;> cases h
    exact .inl ⟨_, _, .inl ⟨p, rfl, rfl⟩, hact, rfl⟩
  | drop0 n x =>
    obtain ⟨hact, -, -, he⟩ | ⟨-, -, he⟩ | ⟨-, he⟩ := drop0_cases n x s <;> rw [applyEvent, he] at h <;> cases h
    exact .inl ⟨n, _, .inr ⟨x, rfl⟩, hact, rfl⟩
  | warmReset | coldReset => exact .inr (.inl rfl)
  | setEL2Enabled b => exact .inr (.inr (changeEL2Enabled_keepsRegistersAndMarks h))
  | setEL l | setPState p => obtain ⟨-, rfl⟩ := changePState_next h; exact .inr (.inr (.of_eq rfl rfl))
  | eret => obtain ⟨l, -, -, -, rfl⟩ := exceptionReturn_next h; exact .inr (.inr (.of_eq rfl rfl))
  | setLegacyVM b => cases h; exact .inr (.inr (changeLegacyVM_keepsRegistersAndMarks b s))
  | ap1rWrite n v =>
    cases h
    exact .inr (.inr (reevaluate_keepsRegistersAndMarks (setAp1r n v { s with ap1rWritten := true })))
  | ap1rChange n v => cases h; exact .inr (.inr (reevaluate_keepsRegistersAndMarks (setAp1r n v s)))
  | setX t v => cases h; exact .inr (.inr (writeX_keepsRegistersAndMarks t.val v s))
  | setVbar l v | setElr l v | setSpsr l v => cases h; exact .inr (.inr (setBank_keepsRegistersAndMarks l _ s))
  | newRestoreSequence | setNV | setNV2 | setTGE | setSreEL2 | setSreEL3 | setVcpuifEnabled | setNvMemFaulting
  | nvMemStore | setPc => cases h; exact .inr (.inr (.of_eq rfl rfl))

/-- Settles O49: a direct `MSR` and the interface reach the register they name only. -/
theorem registersChangeOnlyByTheirWriters : Obligations.RegistersChangeOnlyByTheirWriters := by
  unfold Obligations.RegistersChangeOnlyByTheirWriters
  intro s u m h hne
  obtain ⟨p, hp, -, hpe⟩ | ⟨e, rest, -, -, he, hev⟩ := step_next h
  · obtain ⟨n, t, hd, ha, rfl⟩ | ⟨h0, -⟩ := peStep_registers hpe <;> obtain ⟨ts, rfl⟩ := peTurn_frame hp
    · obtain rfl : m = n := by_contra fun hm => hne (ap0r_regWrite_of_ne hm _ (s.setTurns ts))
      exact .inl ⟨_, t, hp, hd, ha⟩
    · exact absurd (ap0r_congr h0 m) hne
  · obtain ⟨n, v, hact, hmay, rfl⟩ | hreset | ⟨h0, -⟩ := applyEvent_registers hev
    · obtain rfl : m = n := by_contra fun hm => hne (ap0r_settleMarks_setAp0r_of_ne hm v (s.setTurns rest))
      obtain ⟨-, hel2, hguest, -⟩ := (vcpuifMayAct_iff _).1 hmay
      obtain ⟨q, rfl, hq⟩ | ⟨x, rfl⟩ := hact
      · exact .inr (.inl ⟨q, he, hq, hguest, hel2⟩)
      · exact .inr (.inr (.inl ⟨x, he, hguest, hel2⟩))
    · exact .inr (.inr (.inr ⟨e, he, hreset⟩))
    · exact absurd (ap0r_congr h0 m) hne

/-- Settles O48: a register write and a settling of the marks only add to them, and only a reset clears them. -/
theorem marksAreSticky : Obligations.MarksAreSticky := by
  unfold Obligations.MarksAreSticky
  intro s u h hnoreset
  obtain ⟨p, hp, -, hpe⟩ | ⟨e, rest, -, -, he, hev⟩ := step_next h
  · obtain ⟨m, t, -, -, rfl⟩ | ⟨-, hk⟩ := peStep_registers hpe <;> obtain ⟨ts, rfl⟩ := peTurn_frame hp
    · exact regWrite_marks_le m _ (s.setTurns ts)
    · exact hk
  · obtain ⟨n, v, -, -, rfl⟩ | hreset | ⟨-, hk⟩ := applyEvent_registers hev
    · exact settleMarks_setAp0r_marks_le n v (s.setTurns rest)
    · simp [hnoreset e he] at hreset
    · exact hk

end Sys2Proof.Machine
end

section
/-! Direct accesses of the registers: which accesses are performed, what a register holds after a direct `MSR`, and what
is left where EL2 is not implemented or not enabled (R22, R28, R29, R30). -/

namespace Sys2Proof.Machine

theorem exec_read_of_direct {m : Fin 4} {s : State} (h : DirectAccess m s) (t : Nat) :
    exec (.accessor .read m t) s = .next (readDirect m t s) := by
  rw [exec_read, readAP0R, (accessCheck_eq_direct m s).2 h]

theorem exec_write_of_direct {m : Fin 4} {s : State} (h : DirectAccess m s) (t : Nat) :
    exec (.accessor .write m t) s = .next (writeDirect m t s) := by
  rw [exec_write, writeAP0R, (accessCheck_eq_direct m s).2 h]

theorem exec_of_undefined {m : Fin 4} {s : State} (h : accessCheck m s = .undefined) (d : Dir) (t : Nat) :
    exec (.accessor d m t) s = .fault (.undefined s.pc) := by
  cases d with
  | read => rw [exec_read, readAP0R, h]; rfl
  | write => rw [exec_write, writeAP0R, h]; rfl

/-- A direct `MSR` that answers a next state answered the direct write. -/
theorem eq_writeDirect_of_exec {m : Fin 4} {t : Nat} {s u : State} (h : DirectAccess m s)
    (hu : exec (.accessor .write m t) s = .next u) : u = writeDirect m t s := by
  rw [exec_write_of_direct h] at hu
  exact (Host.Outcome.next.inj hu).symm

@[simp] theorem writeDirect_marks (m : Fin 4) (t : Nat) (s : State) :
    (writeDirect m t s).marks = (regWrite m (readX t s) s).marks := rfl

/-- The registers after a direct `MSR` with EL2 implemented (R101). -/
theorem ap0r_writeDirect (m n : Fin 4) (t : Nat) {s : State} (h : s.cfg.haveEL2 = true) :
    ap0r n (writeDirect m t s) = if n = m then keepLow (readX t s) else ap0r n s := by
  have hset : ap0r n (writeDirect m t s) = ap0r n (setAp0r m (readX t s) s) :=
    ap0r_congr (regWrite_ap0r m (readX t s) h) n
  rw [hset, ap0r_setAp0r]

/-- Settles O22: a register keeps the low half of what is written, and the mark is set by the high half. -/
theorem upperHalfIsRes0 : Obligations.UpperHalfIsRes0 := by
  unfold Obligations.UpperHalfIsRes0
  intro m s
  refine ⟨highHalf_keepLow _, fun v => ?_, fun t u _ hd h2 hu => ?_⟩
  · rw [getElem_setAp0r, if_pos rfl]; rfl
  · obtain rfl := eq_writeDirect_of_exec hd hu
    rw [writeDirect_marks, regWrite_marks m _ h2]
    simp [highHalf]

/-- Settles O24: the view is the low half of the register, which a direct `MSR` sets. -/
theorem aarch32ViewSeesDirectWrites : Obligations.AArch32ViewSeesDirectWrites := by
  unfold Obligations.AArch32ViewSeesDirectWrites
  intro m t s u _ hd h2 hu
  obtain rfl := eq_writeDirect_of_exec hd hu
  refine ⟨?_, fun n hn => ?_⟩
  · rw [aarch32View, ap0r_writeDirect m m t h2, if_pos rfl]
    exact lowHalf_keepLow _
  · rw [aarch32View, ap0r_writeDirect m n t h2, if_neg hn, aarch32View]

/-- Zero written to any `x[t]` is read back: `XZR` reads zero anyway (R32). -/
theorem readX_writeX_zero (t : Nat) (s : State) : readX t (writeX t 0 s) = 0 := by
  rw [readX_writeX]
  split
  next => rfl
  next h => exact dif_neg fun ht => h ⟨rfl, ht⟩

/-- Without EL2 the PE is at EL2 in no consistent state, and EL2 is not enabled (R33). -/
theorem controls_of_noEL2 {c : Config} {l : EL} {b : Bool} (h2 : c.haveEL2 = false)
    (hc : consistentControls c l b = true) : l ≠ .el2 ∧ b = false := by
  obtain ⟨hl, -, hb⟩ := (consistentControls_iff c l b).1 hc
  exact ⟨fun e => by simpa [h2] using hl e, by simpa [h2] using hb⟩

/-- Without EL2 no level but EL3 reaches a register (R29, R90). -/
theorem accessCheck_of_noEL2 {s : State} (h2 : s.cfg.haveEL2 = false)
    (hc : consistentControls s.cfg s.pstate.el s.el2Enabled = true) (hl : s.pstate.el ≠ .el3) (m : Fin 4) :
    accessCheck m s = .undefined := by
  obtain ⟨hne, hdis⟩ := controls_of_noEL2 h2 hc
  rw [accessCheck_eq_undefined]
  cases he : s.pstate.el with
  | el0 => simp
  | el1 => simp [hdis]
  | el2 => exact absurd he hne
  | el3 => exact absurd he hl

/-- Settles O23: at EL3 both accesses are direct, and without EL2 the read gives zero and the write is ignored. -/
theorem registerIsRes0WithoutEL2 : Obligations.RegisterIsRes0WithoutEL2 := by
  unfold Obligations.RegisterIsRes0WithoutEL2
  intro m t s _ h2 hp hi hc
  refine ⟨fun hl hsre => ?_, fun hl d => exec_of_undefined (accessCheck_of_noEL2 h2 hc hl m) d t⟩
  have hd : DirectAccess m s := ⟨⟨hp, hi⟩, .inr ⟨hl, hsre⟩⟩
  refine ⟨⟨_, exec_read_of_direct hd t, ?_⟩, ?_⟩
  · have hzero : directRead m s = 0 := by simp [directRead, h2]
    have hx : readX t (readDirect m t s) = readX t (writeX t 0 s) := by rw [readDirect, hzero]; rfl
    rw [hx, readX_writeX_zero]
  · rw [exec_write_of_direct hd, writeDirect, regWrite_of_noEL2 m _ h2]
    rfl

/-- Settles O35: both conditions are evaluated only while `EL2Enabled`. -/
theorem noOverlapOrLegacyMarkWhileEL2Disabled : Obligations.NoOverlapOrLegacyMarkWhileEL2Disabled := by
  unfold Obligations.NoOverlapOrLegacyMarkWhileEL2Disabled
  intro m t s _ hm hl hsre hdis
  refine ⟨_, exec_write_of_direct ⟨hm, .inr ⟨hl, hsre⟩⟩ t, ?_⟩
  rw [writeDirect_marks]
  cases h2 : s.cfg.haveEL2 with
  | true => simp [regWrite_marks m _ h2, hdis]
  | false => simp [regWrite_of_noEL2 m _ h2]

end Sys2Proof.Machine
end

section
/-! The events that change `ICH_AP1R<n>_EL2` or enable EL2 (R35, R39, D19), and the state after reset (R40). -/

namespace Sys2Proof.Machine

/-- Settles O34: a direct write of `ICH_AP1R<n>_EL2` evaluates both conditions on the registers it leaves. -/
theorem ap1rWritesAreRecorded : Obligations.Ap1rWritesAreRecorded := by
  unfold Obligations.Ap1rWritesAreRecorded
  intro n v s
  refine ⟨⟨writeAp1r n v s, rfl, ?_, rfl, rfl, ?_⟩, rfl⟩
  · exact (ap1r_setAp1r n n v _).trans (if_pos rfl)
  · have hov : (writeAp1r n v s).marks.unpredOverlap =
        (s.marks.unpredOverlap || (s.el2Enabled && overlap (writeAp1r n v s))) := rfl
    rw [hov, Bool.or_eq_true, Bool.and_eq_true, overlap_iff]
    rfl

/-- Settles O36: the event evaluates both conditions, as `EL2Enabled` was false. -/
theorem enablingEL2EvaluatesTheMarks : Obligations.EnablingEL2EvaluatesTheMarks := by
  unfold Obligations.EnablingEL2EvaluatesTheMarks
  intro s hdis hc
  refine ⟨reevaluate { s with el2Enabled := true }, ?_, rfl, rfl, ?_, ?_⟩
  · simp [applyEvent, changeEL2Enabled, hc, hdis]
  · exact reevaluate_marksOverlap (s := { s with el2Enabled := true }) rfl
  · exact fun hl hact => reevaluate_marksLegacy (s := { s with el2Enabled := true }) rfl hl ((anyActive_iff _).2 hact)

/-- Settles O38, register by register. -/
theorem resetStateHoldsTheStatedValues : Obligations.ResetStateHoldsTheStatedValues := by
  unfold Obligations.ResetStateHoldsTheStatedValues
  refine ⟨?_, rfl, ?_, rfl⟩
  · decide
  · decide

end Sys2Proof.Machine
end

section
/-! Which bit stands for which priority (R24 to R27): the level of a priority is the number of its bit, counted through
the registers, and every level below `2^PRE` is that of the priority `LevelName` names. -/

namespace Sys2Proof

/-- The registers that exist hold one bit for each preemption level. -/
theorem Pre.registerCount_mul (pre : Pre) : 32 * pre.registerCount = 2 ^ pre.bits := by
  cases pre <;> rfl

end Sys2Proof

namespace Sys2Proof.Machine

theorem level_lt (pre : Pre) (p : Byte) : level pre p < 2 ^ pre.bits := by
  have hp := p.isLt
  rw [level_eq]
  cases pre <;> simp only [Pre.bits] <;> omega

theorem apReg_val (pre : Pre) (p : Byte) : (apReg pre p).val = level pre p / 32 := by
  have hl : level pre p < 2 ^ pre.bits := level_lt pre p
  have hb : 2 ^ pre.bits ≤ 2 ^ 7 := by cases pre <;> decide
  exact Nat.mod_eq_of_lt (by omega)

theorem apBit_val (pre : Pre) (p : Byte) : (apBit pre p).val = level pre p % 32 := rfl

theorem apReg_apBit_eq_level (pre : Pre) (p : Byte) :
    32 * (apReg pre p).val + (apBit pre p).val = level pre p := by
  rw [apReg_val, apBit_val, Nat.div_add_mod]

/-- Two priorities stand on one bit iff they have one level. -/
theorem apReg_apBit_eq_iff (pre : Pre) (p q : Byte) :
    (apReg pre p = apReg pre q ∧ apBit pre p = apBit pre q) ↔ level pre p = level pre q := by
  constructor
  · rintro ⟨hr, hb⟩
    rw [← apReg_apBit_eq_level pre p, hr, hb, apReg_apBit_eq_level]
  · intro h
    simp [apReg, apBit, h]

/-- Every bit of an implemented register has the level its name says. -/
theorem exists_level_eq {c : Config} {n : Fin 4} (hn : c.implemented n = true) (x : Fin 32) :
    ∃ p : Byte, p.toNat = levelName c.pre n x ∧ level c.pre p = 32 * n.val + x.val := by
  have hlt := (c.implemented_iff_lt_registerCount n).1 hn
  have hmul := c.pre.registerCount_mul
  have hpow : 2 ^ c.pre.bits * 2 ^ (8 - c.pre.bits) = 256 := by cases c.pre <;> rfl
  have hname : levelName c.pre n x < 256 := by
    rw [← hpow, levelName]
    exact Nat.mul_lt_mul_of_pos_right (by omega) (Nat.two_pow_pos _)
  have hp : (BitVec.ofNat 8 (levelName c.pre n x)).toNat = levelName c.pre n x := by
    rw [BitVec.toNat_ofNat, Nat.mod_eq_of_lt hname]
  refine ⟨BitVec.ofNat 8 (levelName c.pre n x), hp, ?_⟩
  rw [level_eq, hp, levelName, Nat.mul_div_cancel _ (Nat.two_pow_pos _)]

/-- The bit of a level. -/
theorem apReg_apBit_of_level {pre : Pre} {p : Byte} {n : Fin 4} {x : Fin 32} (h : level pre p = 32 * n.val + x.val) :
    apReg pre p = n ∧ apBit pre p = x := by
  constructor
  · apply Fin.ext; rw [apReg_val, h]; omega
  · apply Fin.ext; rw [apBit_val, h]; omega

/-- Settles O30, by the level that register and bit together number. -/
theorem levelsAreTheBitsOfImplementedRegisters : Obligations.LevelsAreTheBitsOfImplementedRegisters := by
  unfold Obligations.LevelsAreTheBitsOfImplementedRegisters
  intro c
  refine ⟨fun p => ⟨apReg_implemented c p, apReg_apBit_eq_level c.pre p, ?_⟩, fun p q => ?_, fun n x hn => ?_⟩
  · rw [levelName, apReg_apBit_eq_level, level_eq]
  · rw [apReg_apBit_eq_iff, level_eq, level_eq]
  · obtain ⟨p, hp, hl⟩ := exists_level_eq hn x
    obtain ⟨hr, hb⟩ := apReg_apBit_of_level hl
    exact ⟨p, hr, hb, hp⟩

/-- Settles O29: the level is the priority without its unused low bits, and register and bit are its quotient and
remainder by 32. -/
theorem priorityBitsOfEachCase : Obligations.PriorityBitsOfEachCase := by
  unfold Obligations.PriorityBitsOfEachCase
  intro p
  have hp := p.isLt
  simp only [apReg_val, apBit_val, level_eq, Pre.bits, BitVec.extractLsb'_toNat, Nat.shiftRight_eq_div_pow, Nat.reduceSub,
    Nat.reducePow, and_true]
  omega

end Sys2Proof.Machine
end

section
/-! The bytes of the `NVMem` window (R50, R52, R54, R55): what a store puts where, and what it leaves alone. -/

namespace Sys2Proof.Machine

/-- The byte memory holds `k` places into a slot, in either byte order (R54). -/
theorem getElem_slotBytes (e : Bool) (v : Word) (k : Nat) (hk : k < (slotBytes e v).length) :
    (slotBytes e v)[k] = byteOf v (if e then 7 - k else k) := by
  have hk8 : k < 8 := by simpa using hk
  cases e with
  | false => interval_cases k <;> rfl
  | true => interval_cases k <;> rfl

/-- A byte of a slot after a store to it. -/
theorem memGet_storeSlot_inside (e : Bool) (off : Nat) (v : Word) {mem : Memory} (h : mem.wf) {k : Nat} (hk : k < 8) :
    memGet (storeSlot e off v mem) (off + k) = byteOf v (if e then 7 - k else k) := by
  have hlen : k < (slotBytes e v).length := by simpa using hk
  rw [storeSlot, memGet_memStore_inside off _ h k hlen, getElem_slotBytes]

/-- Settles O53: byte `k` of the stored slot is byte `k` of the value or its mirror image. -/
theorem slotBytesFollowTheByteOrder : Obligations.SlotBytesFollowTheByteOrder := by
  unfold Obligations.SlotBytesFollowTheByteOrder
  intro off k v mem hk hmem
  exact ⟨memGet_storeSlot_inside false off v hmem hk, memGet_storeSlot_inside true off v hmem hk⟩

/-- Settles O56: a store is a row of single writes, each of which keeps the form and reaches its own address only. -/
theorem storesKeepTheCanonicalForm : Obligations.StoresKeepTheCanonicalForm := by
  unfold Obligations.StoresKeepTheCanonicalForm
  intro a bs mem hmem
  exact ⟨memStore_wf a bs hmem, fun _ hb => memGet_memStore_outside a bs mem hb⟩

/-- Settles O54: the offsets are eight bytes apart, from a multiple of 8. -/
theorem slotOffsets : Obligations.SlotOffsets := by
  unfold Obligations.SlotOffsets
  refine ⟨rfl, rfl, rfl, rfl, fun m n => ?_⟩
  unfold nvMemOffset
  omega

end Sys2Proof.Machine
end

section
/-! Redirected accesses (R50, R51, R53): when one is performed, and what the slot and `x[t]` hold afterwards. -/

namespace Sys2Proof.Machine

theorem nvMemAccessFaults_eq_false_iff (s : State) :
    nvMemAccessFaults s = false ↔ s.cfg.nvMemCanFault = false ∨ s.nvMemFaulting = false := Bool.and_eq_false_iff

theorem exec_read_of_redirected {m : Fin 4} {s : State} (h : RedirectedAccess m s) (hf : nvMemAccessFaults s = false)
    (t : Nat) : exec (.accessor .read m t) s = .next (readRedirected m t s) := by
  rw [exec_read, readAP0R, (accessCheck_eq_nvMem m s).2 h]
  exact if_neg (by simp [hf])

theorem exec_write_of_redirected {m : Fin 4} {s : State} (h : RedirectedAccess m s) (hf : nvMemAccessFaults s = false)
    (t : Nat) : exec (.accessor .write m t) s = .next (writeRedirected m t s) := by
  rw [exec_write, writeAP0R, (accessCheck_eq_nvMem m s).2 h]
  exact if_neg (by simp [hf])

/-- An access is not both redirected and direct: `accessCheck` decides one way. -/
theorem RedirectedAccess.not_direct {m : Fin 4} {s : State} (h : RedirectedAccess m s) : ¬DirectAccess m s := by
  intro hd
  have hn := (accessCheck_eq_nvMem m s).2 h
  rw [(accessCheck_eq_direct m s).2 hd] at hn
  cases hn

/-- A redirected `MSR` that answers a next state did not fault and answered the redirected write. -/
theorem eq_writeRedirected_of_exec {m : Fin 4} {t : Nat} {s u : State} (h : RedirectedAccess m s)
    (hu : exec (.accessor .write m t) s = .next u) : nvMemAccessFaults s = false ∧ u = writeRedirected m t s := by
  obtain ⟨-, hf, rfl⟩ | ⟨hd, -⟩ := exec_write_next hu
  · exact ⟨hf, rfl⟩
  · exact absurd hd h.not_direct

/-- `x[t]` after a write of it: `XZR` still reads zero (R32). -/
theorem readX_writeX_same {t : Nat} (ht : t < 32) (v : Word) (s : State) :
    readX t (writeX t v s) = if t = 31 then 0 else v := by
  split
  next h31 => subst h31; rfl
  next h31 => rw [readX_writeX, if_pos ⟨rfl, by omega⟩]

theorem readX_readRedirected (m : Fin 4) {t : Nat} (ht : t < 32) (s : State) :
    readX t (readRedirected m t s) = if t = 31 then 0 else nvMemRead (nvMemOffset m) s :=
  readX_writeX_same ht _ s

/-- The slots after a redirected `MSR` (R50). -/
theorem nvMemRead_writeRedirected (m n : Fin 4) (t : Nat) {s : State} (h : s.nvmem.wf) :
    nvMemRead (nvMemOffset n) (writeRedirected m t s) = if n = m then readX t s else nvMemRead (nvMemOffset n) s := by
  split
  next hn => subst hn; exact nvMemRead_nvMemWrite _ _ h
  next hn => exact nvMemRead_nvMemWrite_other hn _ s

/-- Settles O15: a redirected access that does not fault is performed, and the read changes `x[t]` and the pc. -/
theorem redirectedReadCompletes : Obligations.RedirectedReadCompletes := by
  unfold Obligations.RedirectedReadCompletes
  intro m t s _ hm hf
  rw [exec_read_of_redirected hm ((nvMemAccessFaults_eq_false_iff s).2 hf), readRedirected_eq]
  rfl

/-- Settles O16: the window after the write is the one with `x[t]` stored at the slot. -/
theorem redirectedWriteCompletes : Obligations.RedirectedWriteCompletes := by
  unfold Obligations.RedirectedWriteCompletes
  intro m t s _ hm hf
  have hexec := exec_write_of_redirected hm ((nvMemAccessFaults_eq_false_iff s).2 hf) t
  rw [writeRedirected_eq] at hexec
  exact ⟨_, hexec, fun hwf => loadSlot_storeSlot _ _ _ hwf, fun _ ha => memGet_storeSlot_outside _ _ _ _ ha⟩

/-- Settles O26: the write leaves the access redirected, and the read gives what the slot holds after it. -/
theorem redirectedReadAfterWrite : Obligations.RedirectedReadAfterWrite := by
  unfold Obligations.RedirectedReadAfterWrite
  intro m n t r s u _ hr hm hn hwf hu
  obtain ⟨hf, rfl⟩ := eq_writeRedirected_of_exec hm hu
  have hn' : RedirectedAccess n (writeRedirected m t s) := hn
  refine ⟨_, exec_read_of_redirected hn' hf r, ?_⟩
  rw [readX_readRedirected n hr, nvMemRead_writeRedirected m n t hwf]

/-- Settles O55: the other agent's store leaves the access redirected, and the read gives the value stored. -/
theorem hostStoreReachesTheGuestRead : Obligations.HostStoreReachesTheGuestRead := by
  unfold Obligations.HostStoreReachesTheGuestRead
  intro m t v s u ht hm hwf hf hu
  cases hu
  have hm' : RedirectedAccess m (nvMemWrite (nvMemOffset m) v s) := hm
  refine ⟨_, exec_read_of_redirected hm' ((nvMemAccessFaults_eq_false_iff s).2 hf) t, ?_⟩
  rw [readX_readRedirected m ht, nvMemRead_nvMemWrite _ v hwf]

end Sys2Proof.Machine
end

section
/-! A direct `MRS` after a direct `MSR` (R59 (a), D11). -/

namespace Sys2Proof.Machine

theorem readX_readDirect (m : Fin 4) {t : Nat} (ht : t < 32) (s : State) :
    readX t (readDirect m t s) = if t = 31 then 0 else directRead m s :=
  readX_writeX_same ht _ s

/-- A direct `MSR` changes nothing the access checks look at. -/
theorem DirectAccess.writeDirect {n : Fin 4} {s : State} (h : DirectAccess n s) (m : Fin 4) (t : Nat) :
    DirectAccess n (writeDirect m t s) := by
  rw [writeDirect_eq]
  exact h

/-- What a direct read gives after a direct `MSR` with EL2 implemented (R101). -/
theorem directRead_writeDirect (m n : Fin 4) (t : Nat) {s : State} (h : s.cfg.haveEL2 = true) :
    directRead n (writeDirect m t s) = if n = m then keepLow (readX t s) else ap0r n s := by
  have hu : (writeDirect m t s).cfg.haveEL2 = true := by rw [writeDirect_eq]; exact h
  rw [directRead, if_pos hu, ap0r_writeDirect m n t h]

/-- Settles O25: the write leaves the access direct, and the read gives what the register holds after it. -/
theorem directReadAfterWrite : Obligations.DirectReadAfterWrite := by
  unfold Obligations.DirectReadAfterWrite
  intro m n t r s u _ hr hm hn h2 hu
  obtain rfl := eq_writeDirect_of_exec hm hu
  refine ⟨_, exec_read_of_direct (hn.writeDirect m t) r, ?_⟩
  rw [readX_readDirect n hr, directRead_writeDirect m n t h2]
  rfl

end Sys2Proof.Machine
end

section
/-! The decoder in numbers (R70 to R75): each test of a field and each masked comparison is a statement about quotients and
remainders of the word's value by powers of 2, and the family is two runs of 128 accepted and 128 reserved words. -/

namespace Sys2Proof

/-- The word of a direction with `m = 0` and `Rt = 0` (R72). -/
def baseWord : Dir → Nat
  | .read => 0xD53CC800
  | .write => 0xD51CC800

theorem toNat_bitField (w : OpWord) (lo n : Nat) : (bitField w lo n).toNat = w.toNat / 2 ^ lo % 2 ^ n := by
  rw [bitField, BitVec.extractLsb'_toNat, Nat.shiftRight_eq_div_pow]

theorem bitField_eq_iff (w : OpWord) (lo n : Nat) (c : BitVec n) :
    bitField w lo n = c ↔ w.toNat / 2 ^ lo % 2 ^ n = c.toNat := by
  rw [← BitVec.toNat_inj, toNat_bitField]

theorem regIndex_val (w : OpWord) : (regIndex w).val = w.toNat / 32 % 4 := toNat_bitField w 5 2

/-- The fields above `op2[2]` are those of R70 for the words of either direction's 256 alone. -/
theorem familyFields_iff (w : OpWord) :
    ((bitField w 22 10 = fixedTop ∧ bitField w 20 1 = 1#1) ∧
      bitField w 19 2 = op0Code ∧ bitField w 16 3 = op1Code ∧ bitField w 12 4 = crnCode ∧ bitField w 8 4 = crmCode) ↔
    ∃ d, w.toNat / 256 = baseWord d / 256 := by
  have hw := w.isLt
  have hd : (∃ d, w.toNat / 256 = baseWord d / 256) ↔ w.toNat / 256 = 0xD53CC8 ∨ w.toNat / 256 = 0xD51CC8 :=
    ⟨fun ⟨d, h⟩ => by cases d <;> simp [h, baseWord], fun h => h.elim (⟨.read, ·⟩) (⟨.write, ·⟩)⟩
  rw [hd]
  simp only [bitField_eq_iff, fixedTop, op0Code, op1Code, crnCode, crmCode, BitVec.toNat_ofNat, Nat.reducePow, Nat.reduceMod]
  omega

/-- In the family the `L` bit gives the direction back. -/
theorem dirOf_of_family {w : OpWord} {d : Dir} (h : w.toNat / 256 = baseWord d / 256) : dirOf w = d := by
  have hl : (bitField w 21 1).toNat = w.toNat / 256 / 8192 % 2 := by
    rw [toNat_bitField]
    omega
  rw [h] at hl
  cases d with
  | read => exact if_pos (BitVec.eq_of_toNat_eq hl)
  | write => exact if_neg fun hb => by rw [hb] at hl; cases hl

/-- `decode` on a word of the family: `op2[2]` decides (R75). -/
theorem decode_of_family {w : OpWord} {d : Dir} (h : w.toNat / 256 = baseWord d / 256) :
    decode w = if w.toNat / 128 % 2 = 0 then .instr (.accessor d (regIndex w) (w.toNat % 32)) else .reject .reservedOp2 := by
  obtain ⟨⟨htop, hone⟩, h0, h1, hn, hm⟩ := (familyFields_iff w).2 ⟨d, h⟩
  have hop2 : bitField w 7 1 = 0#1 ↔ w.toNat / 128 % 2 = 0 := bitField_eq_iff w 7 1 0#1
  have hrt : (bitField w 0 5).toNat = w.toNat % 32 := by
    rw [toNat_bitField]
    omega
  simp only [decode, htop, hone, h0, h1, hn, hm, hop2, hrt, dirOf_of_family h, ne_eq, not_true_eq_false, or_self, if_false,
    ite_not]

theorem family_of_decode {w : OpWord} {i : Instr} (h : decode w = .instr i) : ∃ d, w.toNat / 256 = baseWord d / 256 := by
  rw [← familyFields_iff]
  unfold decode at h
  split_ifs at h with hmove hreg hop2
  simp only [not_or, not_not] at hmove hreg
  exact ⟨hmove, hreg⟩

/-- The words of the two rows with `m` in bits [6:5] (D27). -/
theorem decode_of_twoRow {w : OpWord} {d : Dir} (h : w.toNat / 128 = baseWord d / 128) :
    decode w = .instr (.accessor d (regIndex w) (w.toNat % 32)) := by
  have hfam : w.toNat / 256 = baseWord d / 256 := by cases d <;> simp only [baseWord] at h ⊢ <;> omega
  have hop2 : w.toNat / 128 % 2 = 0 := by rw [h]; cases d <;> rfl
  rw [decode_of_family hfam, if_pos hop2]

theorem decode_of_reservedOp2 {w : OpWord} {d : Dir} (h : w.toNat / 128 = baseWord d / 128 + 1) :
    decode w = .reject .reservedOp2 := by
  have hfam : w.toNat / 256 = baseWord d / 256 := by cases d <;> simp only [baseWord] at h ⊢ <;> omega
  have hop2 : ¬w.toNat / 128 % 2 = 0 := by rw [h]; cases d <;> decide
  rw [decode_of_family hfam, if_neg hop2]

/-- A word that decodes is one of the two rows' words, and its instruction is the accessor of its fields. -/
theorem twoRow_of_decode {w : OpWord} {i : Instr} (h : decode w = .instr i) :
    ∃ d, w.toNat / 128 = baseWord d / 128 ∧ i = .accessor d (regIndex w) (w.toNat % 32) := by
  obtain ⟨d, hfam⟩ := family_of_decode h
  rw [decode_of_family hfam] at h
  split_ifs at h with hop2
  refine ⟨d, ?_, (Decoded.instr.inj h).symm⟩
  cases d <;> simp only [baseWord] at hfam ⊢ <;> omega

theorem Instr.wellFormed_iff (i : Instr) : i.wellFormed = true ↔ i.rt < 32 := decide_eq_true_iff

/-- A word's one meaning, by its number: base, register index and `Rt` added up (R72). -/
theorem decode_eq_instr_iff (w : OpWord) (i : Instr) :
    decode w = .instr i ↔ w.toNat = baseWord i.dir + 32 * i.reg.val + i.rt ∧ i.wellFormed = true := by
  rw [Instr.wellFormed_iff]
  constructor
  · intro h
    obtain ⟨d, hrow, rfl⟩ := twoRow_of_decode h
    rw [Machine.dir_accessor, Machine.reg_accessor, Machine.rt_accessor, regIndex_val]
    cases d <;> simp only [baseWord] at hrow ⊢ <;> omega
  · rintro ⟨hw, ht⟩
    have hm := i.reg.isLt
    have hrow : w.toNat / 128 = baseWord i.dir / 128 ∧ w.toNat / 32 % 4 = i.reg.val ∧ w.toNat % 32 = i.rt := by
      cases hd : i.dir <;> simp only [hd, baseWord] at hw ⊢ <;> omega
    obtain ⟨hdir, hreg, hrt⟩ := hrow
    rw [decode_of_twoRow hdir, hrt, Fin.ext ((regIndex_val w).trans hreg), Machine.accessor_fields]

end Sys2Proof
end

section
/-! The opcode table's masks (R74) and the encoder (R72), by the same numbers. -/

namespace Sys2Proof

/-- A mask of ones from bit `k` up clears the bits below it. -/
theorem toNat_and_onesFrom (w : OpWord) (k : Nat) :
    (w &&& (BitVec.allOnes 32 <<< k)).toNat = w.toNat / 2 ^ k * 2 ^ k := by
  have hle : w.toNat / 2 ^ k * 2 ^ k < 2 ^ 32 := (Nat.div_mul_le_self _ _).trans_lt w.isLt
  rw [← BitVec.shiftLeft_ushiftRight, BitVec.toNat_shiftLeft, BitVec.toNat_ushiftRight, Nat.shiftRight_eq_div_pow,
    Nat.shiftLeft_eq, Nat.mod_eq_of_lt hle]

theorem toNat_and_rowMask (w : OpWord) : (w &&& rowMask).toNat = w.toNat / 32 * 32 := toNat_and_onesFrom w 5

theorem toNat_and_twoRowMask (w : OpWord) : (w &&& 0xFFFFFF80#32).toNat = w.toNat / 128 * 128 := toNat_and_onesFrom w 7

theorem toNat_and_rtMask (w : OpWord) : (w &&& 0x1F#32).toNat = w.toNat % 32 := Nat.and_two_pow_sub_one_eq_mod w.toNat 5

theorem toNat_rowMatch (i : Instr) : (rowMatch i).toNat = baseWord i.dir + 32 * i.reg.val := by
  cases i <;> rfl

/-- A row of the opcode table holds for the words that `decode` takes for its instruction (R74). -/
theorem row_iff (w : OpWord) (i : Instr) :
    (w &&& rowMask = rowMatch i ∧ i.rt = (w &&& 0x1F#32).toNat) ↔
      w.toNat = baseWord i.dir + 32 * i.reg.val + i.rt ∧ i.wellFormed = true := by
  have hbase : baseWord i.dir % 32 = 0 := by cases i.dir <;> rfl
  rw [Instr.wellFormed_iff, ← BitVec.toNat_inj, toNat_and_rowMask, toNat_and_rtMask, toNat_rowMatch]
  omega

theorem twoRow_iff (w : OpWord) (d : Dir) :
    w &&& 0xFFFFFF80#32 = BitVec.ofNat 32 (baseWord d) ↔ w.toNat / 128 = baseWord d / 128 := by
  rw [← BitVec.toNat_inj, toNat_and_twoRowMask, BitVec.toNat_ofNat]
  cases d <;> simp only [baseWord] <;> omega

/-- Every instruction's word meets its own row, instruction by instruction. -/
theorem encode_row (i : Instr) : Laws.EncodingRow.Statement i := by
  rw [← Machine.accessor_fields i]
  exact Laws.EncodingRow.row_accessor i.dir i.reg i.rt

theorem toNat_encode {i : Instr} (h : i.wellFormed = true) : (encode i).toNat = baseWord i.dir + 32 * i.reg.val + i.rt := by
  obtain ⟨hrow, hrt⟩ := encode_row i h
  exact ((row_iff (encode i) i).1 ⟨hrow, hrt.symm⟩).1

theorem decode_encode {i : Instr} (h : i.wellFormed = true) : decode (encode i) = .instr i :=
  (decode_eq_instr_iff _ _).2 ⟨toNat_encode h, h⟩

/-- The four bytes of a word put together again. -/
theorem wordOfBytes_bytesOfWord (w : OpWord) :
    wordOfBytes (w.extractLsb' 0 8) (w.extractLsb' 8 8) (w.extractLsb' 16 8) (w.extractLsb' 24 8) = w := by
  have join {a b n k : Nat} (h : b = a + k) : w.extractLsb' b n ++ w.extractLsb' a k = w.extractLsb' a (n + k) :=
    BitVec.extractLsb'_append_extractLsb'_eq_extractLsb' h
  rw [wordOfBytes, join (show 24 = 16 + 8 from rfl), join (show 16 = 8 + 8 from rfl), join (show 8 = 0 + 8 from rfl)]
  exact BitVec.extractLsb'_eq_self

theorem decodeBytes_bytesOfWord (w : OpWord) (rest : List Byte) :
    decodeBytes (bytesOfWord w ++ rest) = (decode w, rest) := by
  conv_rhs => rw [← wordOfBytes_bytesOfWord w]
  rfl

/-- Settles O3: the number of an instruction's word is the one `decode` reads the instruction from, and the word's bytes
give the word back. -/
theorem decodeOfEncodeIsIdentity : Obligations.DecodeOfEncodeIsIdentity := by
  unfold Obligations.DecodeOfEncodeIsIdentity
  intro i hi
  refine ⟨decode_encode hi, fun rest => ?_⟩
  rw [decodeBytes_bytesOfWord, decode_encode hi]

/-- Settles O2: a row's two conditions and `decode`'s answer are the same statement about the word's number. -/
theorem decodeFollowsOpcodeTable : Obligations.DecodeFollowsOpcodeTable := by
  unfold Obligations.DecodeFollowsOpcodeTable
  intro w
  rw [toNat_and_rtMask]
  refine ⟨fun i => ?_, fun h => decode_of_twoRow ((twoRow_iff w .read).1 h),
    fun h => decode_of_twoRow ((twoRow_iff w .write).1 h), fun i h => ?_⟩
  · rw [decode_eq_instr_iff, ← row_iff, toNat_and_rtMask]
    rfl
  · obtain ⟨d, hrow, -⟩ := twoRow_of_decode h
    have hmask := (twoRow_iff w d).2 hrow
    cases d with
    | read => exact .inl hmask
    | write => exact .inr hmask

/-- Settles O4: the word and the encoding of its instruction are the same number. -/
theorem decodedWordsReencode : Obligations.DecodedWordsReencode := by
  unfold Obligations.DecodedWordsReencode
  intro w i h
  obtain ⟨hw, hi⟩ := (decode_eq_instr_iff w i).1 h
  exact ⟨hi, BitVec.eq_of_toNat_eq ((toNat_encode hi).trans hw.symm)⟩

/-- Settles O5, for either direction. -/
theorem encodedWordIsBasePlusIndexPlusRt : Obligations.EncodedWordIsBasePlusIndexPlusRt := by
  unfold Obligations.EncodedWordIsBasePlusIndexPlusRt
  intro m t ht
  have hword (d : Dir) : (encode (.accessor d m t)).toNat = baseWord d + 32 * m.val + t := by
    have hwf : (Instr.accessor d m t).wellFormed = true := by rwa [Instr.wellFormed_iff, Machine.rt_accessor]
    rw [toNat_encode hwf, Machine.dir_accessor, Machine.reg_accessor, Machine.rt_accessor]
  exact ⟨hword .read, hword .write⟩

/-- Settles O1: twelve closed words, each evaluated. -/
theorem wordsOfEachRowDecode : Obligations.WordsOfEachRowDecode := by
  unfold Obligations.WordsOfEachRowDecode
  decide

end Sys2Proof
end

section
/-! The PE's turn at a word that does not decode (R75, U12), and at a word placed by the loader (R61, R72). -/

namespace Sys2Proof.Machine

/-- The PE's turn at an aligned pc whose word is rejected is refused with the reason. -/
theorem peStep_of_reject {s : State} {e : DecodeError} (ha : pcAligned s.pc = true)
    (hd : decode (fetchWord s) = .reject e) : peStep s = .refused (.notOfThisSpec e (fetchWord s)) := by
  unfold peStep; rw [if_pos ha, hd]

/-- Settles O6: each of the words is in the second half of its direction's 256. -/
theorem reservedOp2IsNotAccepted : Obligations.ReservedOp2IsNotAccepted := by
  unfold Obligations.ReservedOp2IsNotAccepted
  intro k hk w hw
  have hrow : ∃ d, w.toNat / 128 = baseWord d / 128 + 1 := by
    obtain rfl | rfl := hw
    · exact ⟨.read, by rw [BitVec.toNat_ofNat, baseWord]; omega⟩
    · exact ⟨.write, by rw [BitVec.toNat_ofNat, baseWord]; omega⟩
  obtain ⟨d, hd⟩ := hrow
  have hdec : decode w = .reject .reservedOp2 := decode_of_reservedOp2 hd
  refine ⟨hdec, fun s ha hf => ?_⟩
  subst hf
  exact peStep_of_reject ha hdec

/-- The text reads back the word stored in it. -/
theorem textWord_memStore (w : OpWord) (a : Nat) {text : Memory} (h : text.wf) :
    textWord (memStore a (bytesOfWord w) text) a = w := by
  have hbyte (k : Nat) (hk : k < 4) : memGet (memStore a (bytesOfWord w) text) (a + k) = (bytesOfWord w)[k] :=
    memGet_memStore_inside a (bytesOfWord w) h k hk
  rw [textWord, hbyte 1 (by decide), hbyte 2 (by decide), hbyte 3 (by decide)]
  have h0 := hbyte 0 (by decide)
  rw [Nat.add_zero] at h0
  rw [h0]
  exact wordOfBytes_bytesOfWord w

theorem fetchWord_placeWord (w : OpWord) {s : State} (h : s.text.wf) : fetchWord (placeWord w s) = w :=
  textWord_memStore w _ h

theorem pcAligned_placeWord (w : OpWord) (s : State) : pcAligned (placeWord w s).pc = true := by
  have hpc : (s.pc &&& ~~~3#64) &&& 3#64 = 0#64 := by
    rw [BitVec.and_assoc, show ~~~3#64 &&& 3#64 = 0#64 by decide, BitVec.and_zero]
  exact beq_iff_eq.2 hpc

theorem withFetchWord_toNat (s : State) (w : OpWord) : s.withFetchWord 32 w.toNat = placeWord w s := by
  rw [State.withFetchWord, Nat.mod_eq_of_lt w.isLt, BitVec.ofNat_toNat, BitVec.setWidth_eq]

theorem decodeTableWord_encode {i : Instr} (h : i.wellFormed = true) : decodeTableWord 32 (encode i).toNat = some i := by
  have hbytes : decodeBytes (bytesOfWord (encode i)) = (.instr i, []) := by
    rw [← List.append_nil (bytesOfWord _), decodeBytes_bytesOfWord, decode_encode h]
  rw [decodeTableWord, Nat.mod_eq_of_lt (encode i).isLt, BitVec.ofNat_toNat, BitVec.setWidth_eq, hbytes]

/-- Settles O45: the loader leaves the turn to the PE, at an aligned pc whose word is the one placed. -/
theorem placedInstructionRunsNext : Obligations.PlacedInstructionRunsNext := by
  unfold Obligations.PlacedInstructionRunsNext
  intro s i hi htext
  rw [withFetchWord_toNat]
  have hfetch : fetchWord (placeWord (encode i) s) = encode i := fetchWord_placeWord _ htext
  have hdec : decode (fetchWord (placeWord (encode i) s)) = .instr i := by rw [hfetch, decode_encode hi]
  exact ⟨decodeTableWord_encode hi, hfetch, step_of_decode rfl (pcAligned_placeWord _ s) hdec, _, rfl⟩

end Sys2Proof.Machine
end

section
/-! The words of the accessors by number (R72, R74). -/

namespace Sys2Proof

/-- The word of base, register index and `Rt` added up is the accessor's. -/
theorem decode_ofNat (d : Dir) (m : Fin 4) {t : Nat} (ht : t < 32) :
    decode (BitVec.ofNat 32 (baseWord d + 32 * m.val + t)) = .instr (.accessor d m t) := by
  have hm := m.isLt
  have hlt : baseWord d + 32 * m.val + t < 2 ^ 32 := by cases d <;> simp only [baseWord] <;> omega
  rw [decode_eq_instr_iff, Instr.wellFormed_iff, Machine.dir_accessor, Machine.reg_accessor, Machine.rt_accessor,
    BitVec.toNat_ofNat, Nat.mod_eq_of_lt hlt]
  exact ⟨rfl, ht⟩

/-! The test on `PRE` of each specialised procedure is that the register is not implemented (R3). -/

theorem Config.not_implemented_one (c : Config) : (!c.implemented 1) = decide (c.pre.bits < 6) := by
  cases h : c.pre <;> simp [Config.implemented, h, Pre.bits]

theorem Config.not_implemented_two_three (c : Config) {m : Fin 4} (hm : m = 2 ∨ m = 3) :
    (!c.implemented m) = decide (c.pre.bits < 7) := by
  obtain rfl | rfl := hm <;> cases h : c.pre <;> simp [Config.implemented, h, Pre.bits]

end Sys2Proof
end

section
/-! The access checks as the specialised procedures write them (R91 to R94, R104 to R107), and the read accessors. -/

namespace Sys2Proof.Machine

/-- The chain of a specialised procedure: the tests on the register and EL0 in one line, then one line for each outcome of
a level. `absent` is the procedure's own test on `PRE`. -/
def checkLines (absent : Bool) (s : State) : Access :=
  if s.cfg.present = false ∨ absent = true ∨ s.pstate.el = .el0 then .undefined
  else if s.pstate.el = .el1 ∧ s.el2Enabled = true ∧ s.nv2 = true ∧ s.nv = true then .nvMem
  else if s.pstate.el = .el1 ∧ s.el2Enabled = true ∧ s.nv = true then .trap .el2
  else if s.pstate.el = .el1 then .undefined
  else if s.pstate.el = .el2 ∧ s.sreEL2 = false then .trap .el2
  else if s.pstate.el = .el3 ∧ s.sreEL3 = false then .trap .el3
  else .direct

/-- The chain of R90 answers what the specialised chain does: where the register exists, its level's lines are left. -/
theorem accessCheck_eq_checkLines (m : Fin 4) (s : State) :
    accessCheck m s = checkLines (!s.cfg.implemented m) s := by
  by_cases h : RegExists m s
  · rw [accessCheck_of_exists h, checkLines]
    obtain ⟨hp, hi⟩ := h
    cases hl : s.pstate.el with
    | el0 => simp
    | el1 => simp [hp, hi, checkEL1, and_assoc]
    | el2 => cases hsre : s.sreEL2 <;> simp [hp, hi]
    | el3 => cases hsre : s.sreEL3 <;> simp [hp, hi]
  · rw [accessCheck_of_absent h, checkLines, if_pos]
    cases hp : s.cfg.present with
    | false => exact .inl rfl
    | true => exact .inr (.inl (by simpa [hp] using h))

/-- `ReadAP0R(m, t)` specialised (R90 to R94): on each line of the chain both sides are one outcome, the fault test and the
value being written out. -/
theorem readAP0R_eq_readRule (m : Fin 4) (t : Nat) (s : State) :
    readAP0R m t s = readRule m (!s.cfg.implemented m) (nvMemOffset m) t s := by
  have hfault : nvMemAccessFaults s = true ↔ s.cfg.nvMemCanFault = true ∧ s.nvMemFaulting = true := Bool.and_eq_true_iff
  have hvalue : (if s.cfg.haveEL2 = true then (s.ap0r[m].extractLsb' 0 32).setWidth 64 else 0 : Word) = directRead m s := rfl
  rw [readAP0R, accessCheck_eq_checkLines, readRedirected_eq, readDirect_eq]
  simp only [readRule, checkLines, hfault, hvalue]
  split_ifs <;> rfl

/-- Settles O11: each word's number names the accessor, and each specialised procedure is `ReadAP0R` at its register. -/
theorem readAccessorsFollowTheirRules : Obligations.ReadAccessorsFollowTheirRules := by
  unfold Obligations.ReadAccessorsFollowTheirRules
  intro t ht
  refine ⟨decode_ofNat .read 0 ht, decode_ofNat .read 1 ht, decode_ofNat .read 2 ht, decode_ofNat .read 3 ht, fun s => ?_⟩
  have h1 := readAP0R_eq_readRule 1 t s
  have h2 := readAP0R_eq_readRule 2 t s
  have h3 := readAP0R_eq_readRule 3 t s
  rw [Config.not_implemented_one] at h1
  rw [Config.not_implemented_two_three _ (.inl rfl)] at h2
  rw [Config.not_implemented_two_three _ (.inr rfl)] at h3
  exact ⟨readAP0R_eq_readRule 0 t s, h1, h2, h3⟩

/-- Settles O13: a direct access is performed, and the read changes `x[t]`, `last_read[m]` and the pc. -/
theorem directReadCompletes : Obligations.DirectReadCompletes := by
  unfold Obligations.DirectReadCompletes
  intro m t s _ h
  rw [exec_read_of_direct h, readDirect_eq]

/-! ### Frames -/

/-- What an accessor may write is no part of the surroundings. -/
theorem sameSurroundings_accessor (s : State) (x : Vector Word 31) (ap0r : Vector Word 4) (marks : Marks)
    (lastRead : Vector (Option Word) 4) (nvmem : Memory) (pc : Word) :
    sameSurroundings s { s with
      x := x, ap0r := ap0r, marks := marks, lastRead := lastRead, nvmem := nvmem, pc := pc } := by
  simp [sameSurroundings]

/-- Everything an `MRS` writes: `x[t]`, the pc, and `last_read` at `m`, on a direct read only (R90). -/
theorem exec_read_frame {m : Fin 4} {t : Nat} {s u : State} (h : exec (.accessor .read m t) s = .next u) :
    ∃ v lastRead, u = advancePc ((writeX t v s).setLastReads lastRead) ∧
      (∀ n, n ≠ m → lastRead[n] = s.lastRead[n]) ∧ (s.pstate.el = .el1 → lastRead = s.lastRead) := by
  obtain ⟨-, -, rfl⟩ | ⟨⟨-, hl⟩, rfl⟩ := exec_read_next h
  · refine ⟨nvMemRead (nvMemOffset m) s, s.lastRead, ?_, fun _ _ => rfl, fun _ => rfl⟩
    rw [readRedirected, writeX_frame]
    rfl
  · refine ⟨directRead m s, (setLastRead m (directRead m s) s).lastRead, ?_, fun n hn => ?_, fun he => ?_⟩
    · rw [readDirect, writeX_frame]
      rfl
    · rw [getElem_setLastRead, if_neg hn]
    · simp [he] at hl

/-- Settles O17: an `MRS` writes `x[t]`, `last_read[m]` and the pc, none of which is part of the surroundings. -/
theorem readAccessorsFrame : Obligations.ReadAccessorsFrame := by
  unfold Obligations.ReadAccessorsFrame
  intro m t s u _ h
  obtain ⟨v, lastRead, rfl, hother, hel1⟩ := exec_read_frame h
  have hreg : ∀ k, k ≠ t → readX k (writeX t v s) = readX k s := fun k hk => by
    rw [readX_writeX, if_neg fun e => hk e.1]
  have hzr : t = 31 → (writeX t v s).x = s.x := by rintro rfl; rfl
  rw [writeX_frame] at hzr
  simp only [writeX_frame] at hreg ⊢
  exact ⟨sameSurroundings_accessor s _ s.ap0r s.marks lastRead s.nvmem _, hreg, hzr, rfl, rfl, fun _ => rfl, hother, hel1⟩

end Sys2Proof.Machine
end

section
/-! The register write as R101 states it, and the write accessors (R100 to R107). -/

namespace Sys2Proof.Machine

/-! ### `RegWrite` and its marks -/

/-- The values a write may have without the mark `unpred_value` (R102). -/
theorem valueAdmitted_iff (m : Fin 4) (v : Word) (s : State) :
    valueAdmitted m v s = true ↔ lowHalf v = 0 ∨ ∃ w ∈ s.lastRead[m], lowHalf w = lowHalf v := by
  cases hw : s.lastRead[m] <;> simp [valueAdmitted, hw]

/-- `RegWrite` is R101's list of effects: with EL2 implemented, the register and the marks agree condition by condition. -/
theorem regWrite_eq_registerWritten (m : Fin 4) (v : Word) (s : State) : regWrite m v s = registerWritten m v s := by
  cases h2 : s.cfg.haveEL2 with
  | false => rw [regWrite_of_noEL2 m v h2, registerWritten, if_neg (by simp [h2])]
  | true =>
    have hres0 : (highHalf v != 0) = decide (highHalf v ≠ 0) := decide_not.symm
    have hvalue : valueAdmitted m v s = decide (lowHalf v = 0 ∨ ∃ w ∈ s.lastRead[m], lowHalf w = lowHalf v) := by
      rw [Bool.eq_iff_iff, decide_eq_true_iff]
      exact valueAdmitted_iff m v s
    have hlegacy : (keepLow v != 0) = decide (ap0r m (setAp0r m v s) ≠ 0) := by
      rw [ap0r_setAp0r, if_pos rfl]
      exact decide_not.symm
    rw [regWrite_frame, regWrite_ap0r m v h2, regWrite_marks m v h2, registerWritten, if_pos h2, hres0, hvalue, hlegacy]
    rfl

/-- A direct `MSR` is R101's effects on `x[t]` and the pc (R36). -/
theorem writeDirect_eq_registerWritten (m : Fin 4) (t : Nat) (s : State) :
    writeDirect m t s = { registerWritten m (sourceValue t s) s with pc := s.pc + 4 } := by
  have hpc : (regWrite m (readX t s) s).pc = s.pc := by rw [regWrite_frame]
  rw [writeDirect, advancePc, hpc, regWrite_eq_registerWritten]
  rfl

/-- Settles O19: a direct access is performed, and `RegWrite` is R101's list of effects. -/
theorem registerWriteSetsRegisterAndMarks : Obligations.RegisterWriteSetsRegisterAndMarks := by
  unfold Obligations.RegisterWriteSetsRegisterAndMarks
  intro m t s _ h
  rw [exec_write_of_direct h, writeDirect_eq_registerWritten]

/-- Settles O20: the mark, clear before, is set exactly when the value is not admitted. -/
theorem valueMarkIffNotLastReadNorZero : Obligations.ValueMarkIffNotLastReadNorZero := by
  unfold Obligations.ValueMarkIffNotLastReadNorZero
  intro m t s u _ hd h2 hclear hu
  obtain rfl := eq_writeDirect_of_exec hd hu
  rw [writeDirect_marks, regWrite_marks m _ h2, hclear, Bool.false_or, Bool.not_eq_false']
  exact (valueAdmitted_iff m (readX t s) s).trans (or_congr_right (exists_congr fun _ => and_congr_right' eq_comm))

/-- Settles O21: the mark afterwards is the mark before or `ap1r_written`, whatever the value. -/
theorem orderMarkIffAp1rWritten : Obligations.OrderMarkIffAp1rWritten := by
  unfold Obligations.OrderMarkIffAp1rWritten
  intro m t s u _ hd h2 hu
  obtain rfl := eq_writeDirect_of_exec hd hu
  rw [writeDirect_marks, regWrite_marks m _ h2, Bool.or_eq_true]

/-- Settles O14: a direct access is performed; with EL2 the registers are those after the write, without it the write is
ignored (R29). -/
theorem directWriteCompletes : Obligations.DirectWriteCompletes := by
  unfold Obligations.DirectWriteCompletes
  intro m t s _ h
  refine ⟨_, exec_write_of_direct h t, ?_, fun h2 => ⟨?_, fun n hn => ?_⟩, fun h2 => ?_⟩
  · rw [writeDirect_eq]
  · rw [ap0r_writeDirect m m t h2, if_pos rfl]
    rfl
  · rw [ap0r_writeDirect m n t h2, if_neg hn]
  · rw [writeDirect, regWrite_of_noEL2 m _ h2]
    rfl

/-! ### The specialised procedures -/

/-- `WriteAP0R(m, t)` specialised (R100 to R107): on each line of the chain both sides are one outcome. -/
theorem writeAP0R_eq_writeRule (m : Fin 4) (t : Nat) (s : State) :
    writeAP0R m t s = writeRule m (!s.cfg.implemented m) (nvMemOffset m) t s := by
  have hfault : nvMemAccessFaults s = true ↔ s.cfg.nvMemCanFault = true ∧ s.nvMemFaulting = true := Bool.and_eq_true_iff
  rw [writeAP0R, accessCheck_eq_checkLines, writeDirect_eq_registerWritten]
  simp only [writeRule, checkLines, hfault]
  split_ifs <;> rfl

/-- Settles O12: each word's number names the accessor, and each specialised procedure is `WriteAP0R` at its register. -/
theorem writeAccessorsFollowTheirRules : Obligations.WriteAccessorsFollowTheirRules := by
  unfold Obligations.WriteAccessorsFollowTheirRules
  intro t ht
  refine ⟨decode_ofNat .write 0 ht, decode_ofNat .write 1 ht, decode_ofNat .write 2 ht, decode_ofNat .write 3 ht,
    fun s => ⟨writeAP0R_eq_writeRule 0 t s, ?_, ?_, ?_⟩⟩
  · rw [← Config.not_implemented_one]
    exact writeAP0R_eq_writeRule 1 t s
  · rw [← Config.not_implemented_two_three (m := 2) _ (.inl rfl)]
    exact writeAP0R_eq_writeRule 2 t s
  · rw [← Config.not_implemented_two_three (m := 3) _ (.inr rfl)]
    exact writeAP0R_eq_writeRule 3 t s

/-! ### The frame -/

/-- A register write leaves every other register as it is stored. -/
theorem getElem_regWrite_of_ne {m n : Fin 4} (hn : n ≠ m) (v : Word) (s : State) :
    (regWrite m v s).ap0r[n] = s.ap0r[n] := by
  cases h2 : s.cfg.haveEL2 with
  | false => rw [regWrite_of_noEL2 m v h2]
  | true =>
    have hset : (regWrite m v s).ap0r = (setAp0r m v s).ap0r := regWrite_ap0r m v h2
    rw [hset, getElem_setAp0r, if_neg hn]

/-- Settles O18: what an `MSR` writes is a slot and the pc from EL1, or one register, the marks and the pc from another
level; none of it is part of the surroundings. -/
theorem writeAccessorsFrame : Obligations.WriteAccessorsFrame := by
  unfold Obligations.WriteAccessorsFrame
  intro m t s u _ h
  obtain ⟨⟨-, hl, -⟩, -, rfl⟩ | ⟨⟨-, hl⟩, rfl⟩ := exec_write_next h
  · rw [writeRedirected_eq]
    exact ⟨sameSurroundings_accessor s s.x s.ap0r s.marks s.lastRead _ _, rfl, rfl, fun _ _ => rfl,
      fun _ => ⟨rfl, rfl, fun _ ha => memGet_storeSlot_outside _ _ _ _ ha⟩, fun hne => absurd hl hne⟩
  · rw [writeDirect_eq]
    exact ⟨sameSurroundings_accessor s s.x _ _ s.lastRead s.nvmem _, rfl, rfl,
      fun _ hn => getElem_regWrite_of_ne hn _ s, fun he => by simp [he] at hl, fun _ _ => rfl⟩

end Sys2Proof.Machine
end

section
/-! What an accessor answers, for both directions at once: one equation per decision of the access checks, and when it is a
fault or a next state (R90, R100, R112). -/

namespace Sys2Proof.Machine

/-- The next state of a redirected access (line (4a) of R90 and R100). -/
def performRedirected : Dir → Fin 4 → Nat → State → State
  | .read => readRedirected
  | .write => writeRedirected

/-- The next state of an access to the register (lines (5b) and (6b) of R90 and R100). -/
def performDirect : Dir → Fin 4 → Nat → State → State
  | .read => readDirect
  | .write => writeDirect

/-- What an accessor answers to each decision of the access checks. -/
def answer (d : Dir) (m : Fin 4) (t : Nat) (s : State) : Access → Host.Outcome State Fault Refusal
  | .undefined => .fault (.undefined s.pc)
  | .trap target => .fault (.sysTrap target sysTrapCode s.pc (sysTrapEsr d m t))
  | .nvMem => if nvMemAccessFaults s then .fault (.nvMemFault s.pc) else .next (performRedirected d m t s)
  | .direct => .next (performDirect d m t s)

theorem exec_eq_answer (d : Dir) (m : Fin 4) (t : Nat) (s : State) :
    exec (.accessor d m t) s = answer d m t s (accessCheck m s) := by
  cases d with
  | read => rw [exec_read, readAP0R]; cases accessCheck m s <;> rfl
  | write => rw [exec_write, writeAP0R]; cases accessCheck m s <;> rfl

theorem exec_of_trap {m : Fin 4} {target : ELx} {s : State} (h : accessCheck m s = .trap target) (d : Dir) (t : Nat) :
    exec (.accessor d m t) s = .fault (.sysTrap target sysTrapCode s.pc (sysTrapEsr d m t)) := by
  rw [exec_eq_answer, h, answer]

theorem exec_of_nvMem {m : Fin 4} {s : State} (h : accessCheck m s = .nvMem) (d : Dir) (t : Nat) :
    exec (.accessor d m t) s =
      if nvMemAccessFaults s then .fault (.nvMemFault s.pc) else .next (performRedirected d m t s) := by
  rw [exec_eq_answer, h, answer]

theorem exec_of_direct {m : Fin 4} {s : State} (h : accessCheck m s = .direct) (d : Dir) (t : Nat) :
    exec (.accessor d m t) s = .next (performDirect d m t s) := by
  rw [exec_eq_answer, h, answer]

/-- When an accessor raises, and what. -/
theorem exec_eq_fault_iff (d : Dir) (m : Fin 4) (t : Nat) (s : State) (f : Fault) :
    exec (.accessor d m t) s = .fault f ↔
      (accessCheck m s = .undefined ∧ f = .undefined s.pc) ∨
      (∃ target, accessCheck m s = .trap target ∧ f = .sysTrap target sysTrapCode s.pc (sysTrapEsr d m t)) ∨
      (accessCheck m s = .nvMem ∧ nvMemAccessFaults s = true ∧ f = .nvMemFault s.pc) := by
  cases h : accessCheck m s with
  | undefined => simp [exec_of_undefined h, eq_comm (a := f)]
  | trap target => simp [exec_of_trap h, eq_comm (a := f)]
  | nvMem => cases hf : nvMemAccessFaults s <;> simp [exec_of_nvMem h, hf, eq_comm (a := f)]
  | direct => simp [exec_of_direct h]

/-- When an accessor is performed, and what it answers. -/
theorem exec_eq_next_iff (d : Dir) (m : Fin 4) (t : Nat) (s u : State) :
    exec (.accessor d m t) s = .next u ↔
      (accessCheck m s = .direct ∧ u = performDirect d m t s) ∨
      (accessCheck m s = .nvMem ∧ nvMemAccessFaults s = false ∧ u = performRedirected d m t s) := by
  cases h : accessCheck m s with
  | undefined => simp [exec_of_undefined h]
  | trap target => simp [exec_of_trap h]
  | nvMem => cases hf : nvMemAccessFaults s <;> simp [exec_of_nvMem h, hf, eq_comm (a := u)]
  | direct => simp [exec_of_direct h, eq_comm (a := u)]

end Sys2Proof.Machine
end

section
/-! Software at EL0 and EL1 and the registers (R118, R119): the PE's turn at a guest level commutes with putting other
contents in the registers, `last_read` and the marks. -/

namespace Sys2Proof.Machine

/-- `s` with other contents of what a guest must not learn of. -/
def State.withHidden (regs : Vector Word 4) (last : Vector (Option Word) 4) (k : Marks) (s : State) : State :=
  { s with ap0r := regs, lastRead := last, marks := k }

theorem State.withHidden_self (s : State) : s.withHidden s.ap0r s.lastRead s.marks = s := rfl

/-- A guest's access is never to the register itself. -/
theorem accessCheck_ne_direct_of_guest {s : State} (hg : AtGuestLevel s) (m : Fin 4) : accessCheck m s ≠ .direct := by
  intro h
  obtain ⟨-, ⟨hl, -⟩ | ⟨hl, -⟩⟩ := (accessCheck_eq_direct m s).1 h <;> simp [AtGuestLevel, hl] at hg

section
variable (regs : Vector Word 4) (last : Vector (Option Word) 4) (k : Marks) (s : State)

theorem performRedirected_withHidden (d : Dir) (m : Fin 4) (t : Nat) :
    performRedirected d m t (s.withHidden regs last k) = (performRedirected d m t s).withHidden regs last k := by
  cases d with
  | read => simp only [performRedirected, readRedirected_eq]; rfl
  | write => rfl

theorem enterException_withHidden (target : ELx) (ret : Word) (esr : BitVec 32) :
    enterException target ret esr (s.withHidden regs last k) =
      (enterException target ret esr s).withHidden regs last k := by
  cases target <;> rfl

theorem deliver_withHidden (f : Fault) :
    deliver (s.withHidden regs last k) f = mapNext (State.withHidden regs last k) (deliver s f) := by
  have hcfg : (s.withHidden regs last k).cfg = s.cfg := rfl
  have htarget : undefinedTarget (s.withHidden regs last k) = undefinedTarget s := rfl
  unfold deliver
  rw [hcfg, htarget]
  cases s.cfg.composed with
  | false => rfl
  | true => cases f <;> simp [enterException_withHidden, mapNext]

theorem deliverOutcome_withHidden (o : Host.Outcome State Fault Refusal) :
    deliverOutcome (s.withHidden regs last k) (mapNext (State.withHidden regs last k) o) =
      mapNext (State.withHidden regs last k) (deliverOutcome s o) := by
  cases o with
  | next u => rfl
  | fault f => exact deliver_withHidden regs last k s f
  | refused r => rfl

variable {s} (hg : AtGuestLevel s)
include hg

/-- The checks see nothing that is hidden, and what a guest's access does, it does to everything else. -/
theorem exec_withHidden (i : Instr) :
    exec i (s.withHidden regs last k) = mapNext (State.withHidden regs last k) (exec i s) := by
  rw [← accessor_fields i]
  have hcheck : accessCheck i.reg (s.withHidden regs last k) = accessCheck i.reg s := rfl
  have hfault : nvMemAccessFaults (s.withHidden regs last k) = nvMemAccessFaults s := rfl
  cases h : accessCheck i.reg s with
  | undefined => rw [exec_of_undefined (hcheck.trans h), exec_of_undefined h]; rfl
  | trap target => rw [exec_of_trap (hcheck.trans h), exec_of_trap h]; rfl
  | nvMem =>
    rw [exec_of_nvMem (hcheck.trans h), exec_of_nvMem h, hfault, performRedirected_withHidden]
    cases nvMemAccessFaults s <;> rfl
  | direct => exact absurd h (accessCheck_ne_direct_of_guest hg i.reg)

theorem peStep_withHidden :
    peStep (s.withHidden regs last k) = mapNext (State.withHidden regs last k) (peStep s) := by
  have hpc : (s.withHidden regs last k).pc = s.pc := rfl
  have hword : fetchWord (s.withHidden regs last k) = fetchWord s := rfl
  unfold peStep
  rw [hpc, hword]
  cases pcAligned s.pc with
  | false => rfl
  | true =>
    cases decode (fetchWord s) with
    | instr i =>
      exact (congrArg (deliverOutcome _) (exec_withHidden regs last k hg i)).trans
        (deliverOutcome_withHidden regs last k s (exec i s))
    | reject e => rfl

end

/-- Settles O51: that a guest changes nothing hidden is the same fact with the state's own contents put in. -/
theorem guestNeitherReachesNorLearnsTheRegisters : Obligations.GuestNeitherReachesNorLearnsTheRegisters := by
  unfold Obligations.GuestNeitherReachesNorLearnsTheRegisters
  intro s regs last k hg
  refine ⟨peStep_withHidden regs last k hg, fun u hu => ?_⟩
  have hself := peStep_withHidden s.ap0r s.lastRead s.marks hg
  rw [s.withHidden_self, hu] at hself
  have hu' : u = u.withHidden s.ap0r s.lastRead s.marks := Host.Outcome.next.inj hself
  rw [hu']
  exact ⟨rfl, rfl, rfl⟩

end Sys2Proof.Machine
end

section
/-! The exceptions of the accessors and their order (R112, R113), and who is let through (R119). -/

namespace Sys2Proof.Machine

theorem not_regExists_iff (m : Fin 4) (s : State) :
    ¬RegExists m s ↔ s.cfg.present = false ∨ s.cfg.implemented m = false := by
  rw [RegExists, not_and_or, Bool.not_eq_true, Bool.not_eq_true]

theorem nvMemAccessFaults_iff (s : State) :
    nvMemAccessFaults s = true ↔ s.cfg.nvMemCanFault = true ∧ s.nvMemFaulting = true := Bool.and_eq_true_iff

/-- When an accessor is `Undefined`: X1 to X5 of R112. -/
theorem exec_eq_undefined_iff (d : Dir) (m : Fin 4) (t : Nat) (s : State) :
    exec (.accessor d m t) s = .fault (.undefined s.pc) ↔ accessCheck m s = .undefined := by
  simp [exec_eq_fault_iff]

/-- When an accessor is trapped to a level: X6 to X8 of R112. -/
theorem exec_eq_sysTrap_iff (d : Dir) (m : Fin 4) (t : Nat) (target : ELx) (s : State) :
    exec (.accessor d m t) s = .fault (.sysTrap target 0x18#6 s.pc (sysTrapEsr d m t)) ↔
      accessCheck m s = .trap target := by
  simp [exec_eq_fault_iff, sysTrapCode]

/-- When a redirected access faults: X9 of R112. -/
theorem exec_eq_nvMemFault_iff (d : Dir) (m : Fin 4) (t : Nat) (s : State) :
    exec (.accessor d m t) s = .fault (.nvMemFault s.pc) ↔
      accessCheck m s = .nvMem ∧ nvMemAccessFaults s = true := by
  simp [exec_eq_fault_iff]

/-- Settles O8: each exception is one decision of the access checks, and X9 the fault test besides. -/
theorem exceptionsOfTheAccessors : Obligations.ExceptionsOfTheAccessors := by
  unfold Obligations.ExceptionsOfTheAccessors
  intro d m t s _
  refine ⟨?_, ?_, ?_, ?_, fun f hf => ?_, exec_ne_refused _ s⟩
  · rw [exec_eq_undefined_iff, accessCheck_eq_undefined, not_regExists_iff, or_assoc]
  · rw [exec_eq_sysTrap_iff, accessCheck_eq_trap]
    simp
  · rw [exec_eq_sysTrap_iff, accessCheck_eq_trap]
    simp
  · rw [exec_eq_nvMemFault_iff, accessCheck_eq_nvMem, nvMemAccessFaults_iff]
  · obtain ⟨-, hu⟩ | ⟨target, ht, htrap⟩ | ⟨-, -, hn⟩ := (exec_eq_fault_iff d m t s f).1 hf
    · exact .inl hu
    · obtain ⟨-, ⟨rfl, -⟩ | ⟨rfl, -⟩ | ⟨rfl, -⟩⟩ := (accessCheck_eq_trap m target s).1 ht
      · exact .inr (.inl htrap)
      · exact .inr (.inl htrap)
      · exact .inr (.inr (.inl htrap))
    · exact .inr (.inr (.inr hn))

/-- Each level consults its own controls only (R113). -/
theorem accessCheck_congr (m : Fin 4) {s u : State} (hc : u.cfg = s.cfg) (hl : u.pstate.el = s.pstate.el)
    (h1 : s.pstate.el = .el1 → u.el2Enabled = s.el2Enabled ∧ u.nv = s.nv ∧ u.nv2 = s.nv2)
    (h2 : s.pstate.el = .el2 → u.sreEL2 = s.sreEL2) (h3 : s.pstate.el = .el3 → u.sreEL3 = s.sreEL3) :
    accessCheck m u = accessCheck m s := by
  unfold accessCheck
  rw [hc, hl]
  cases he : s.pstate.el with
  | el0 => rfl
  | el1 => obtain ⟨hen, hnv, hnv2⟩ := h1 he; simp only [checkEL1, hen, hnv, hnv2]
  | el2 => rw [h2 he]
  | el3 => rw [h3 he]

/-- Settles O9: existence is tested first, then the level's own sub-chain is run. -/
theorem firstCheckInOrderDecides : Obligations.FirstCheckInOrderDecides := by
  unfold Obligations.FirstCheckInOrderDecides
  intro d m t s
  refine ⟨fun hx => exec_of_undefined (accessCheck_of_absent hx) d t, fun hx => ?_, fun hl hnv => ?_, ?_, ?_, ?_⟩
  · rw [accessCheck_of_exists hx]
    cases s.pstate.el with
    | el0 => rfl
    | el1 => simp [checkEL1, and_assoc]
    | el2 => cases s.sreEL2 <;> rfl
    | el3 => cases s.sreEL3 <;> rfl
  · exact exec_of_undefined ((accessCheck_eq_undefined m s).2 (.inr (.inr ⟨hl, by simp [hnv]⟩))) d t
  · exact fun b hne => accessCheck_congr m rfl rfl (fun _ => ⟨rfl, rfl, rfl⟩) (absurd · hne) fun _ => rfl
  · exact fun b hne => accessCheck_congr m rfl rfl (fun _ => ⟨rfl, rfl, rfl⟩) (fun _ => rfl) (absurd · hne)
  · exact fun b b' hne => accessCheck_congr m rfl rfl (absurd · hne) (fun _ => rfl) fun _ => rfl

/-- Settles O10: an access is performed on the register, or on the slot where it does not fault. -/
theorem privilegeOfEachLevel : Obligations.PrivilegeOfEachLevel := by
  unfold Obligations.PrivilegeOfEachLevel
  intro d m t s
  simp only [exec_eq_next_iff, accessCheck_eq_direct, accessCheck_eq_nvMem, ← nvMemAccessFaults_iff, Bool.not_eq_true]
  constructor
  · rintro ⟨u, ⟨hd, -⟩ | ⟨hr, hf, -⟩⟩
    · exact .inl hd
    · exact .inr ⟨hr, hf⟩
  · rintro (hd | ⟨hr, hf⟩)
    · exact ⟨_, .inl ⟨hd, rfl⟩⟩
    · exact ⟨_, .inr ⟨hr, hf, rfl⟩⟩

end Sys2Proof.Machine
end

section
/-! The virtual CPU interface (R122 to R124): the bit it sets or clears, and when it may act. -/

namespace Sys2Proof.Machine

theorem getLsbD_bitMask (x : Fin 32) (b : Nat) : (bitMask x).getLsbD b = decide (b = x.val) := by
  have hx : x.val < 64 := by omega
  rw [bitMask, BitVec.getLsbD_twoPow, decide_eq_true hx, Bool.true_and]
  simp only [eq_comm]

/-- A register reads with bits [63:32] zero (R22). -/
theorem getLsbD_ap0r_of_ge (n : Fin 4) (s : State) {b : Nat} (hb : 32 ≤ b) : (ap0r n s).getLsbD b = false := by
  rw [ap0r, getLsbD_keepLow, decide_eq_false (by omega), Bool.false_and]

/-- The registers after a step of the interface. -/
theorem ap0r_settleMarks_setAp0r (m n : Fin 4) (v : Word) (s : State) :
    ap0r n (settleMarks m (setAp0r m v s)) = if n = m then keepLow v else ap0r n s :=
  (ap0r_congr (s := setAp0r m v s) rfl n).trans (ap0r_setAp0r m n v s)

/-- Bit by bit, a register with the bit of `x` set. -/
theorem getLsbD_keepLow_setBit (n : Fin 4) (x : Fin 32) (s : State) (b : Nat) :
    (keepLow (ap0r n s ||| bitMask x)).getLsbD b = ((ap0r n s).getLsbD b || decide (b = x.val)) := by
  have := x.isLt
  rw [getLsbD_keepLow, BitVec.getLsbD_or, getLsbD_bitMask]
  by_cases hb : b < 32
  · simp [hb]
  · have hne : b ≠ x.val := by omega
    simp [getLsbD_ap0r_of_ge n s (Nat.not_lt.1 hb), hb, hne]

/-- Bit by bit, a register with the bit of `x` cleared. -/
theorem getLsbD_keepLow_clearBit (n : Fin 4) (x : Fin 32) (s : State) {b : Nat} (h64 : b < 64) :
    (keepLow (ap0r n s &&& ~~~bitMask x)).getLsbD b = ((ap0r n s).getLsbD b && !decide (b = x.val)) := by
  rw [getLsbD_keepLow, BitVec.getLsbD_and, BitVec.getLsbD_not, getLsbD_bitMask]
  by_cases hb : b < 32
  · simp [hb, h64]
  · simp [getLsbD_ap0r_of_ge n s (Nat.not_lt.1 hb), hb]

theorem keepLow_setBit_ne_zero (n : Fin 4) (x : Fin 32) (s : State) : keepLow (ap0r n s ||| bitMask x) ≠ 0 := by
  intro h
  have hbit := getLsbD_keepLow_setBit n x s x.val
  simp [h] at hbit

/-- The bits of every register after `Activate0` (R122). -/
theorem getLsbD_ap0r_setBit (m n : Fin 4) (x : Fin 32) (s : State) (b : Nat) :
    (ap0r n (settleMarks m (setAp0r m (ap0r m s ||| bitMask x) s))).getLsbD b =
      ((ap0r n s).getLsbD b || decide (n = m ∧ b = x.val)) := by
  rw [ap0r_settleMarks_setAp0r]
  split
  next hn => subst hn; simp [getLsbD_keepLow_setBit]
  next hn => simp [hn]

/-- The bits of every register after `Drop0` (R123). -/
theorem getLsbD_ap0r_clearBit (m n : Fin 4) (x : Fin 32) (s : State) {b : Nat} (h64 : b < 64) :
    (ap0r n (settleMarks m (setAp0r m (ap0r m s &&& ~~~bitMask x) s))).getLsbD b =
      ((ap0r n s).getLsbD b && !decide (n = m ∧ b = x.val)) := by
  rw [ap0r_settleMarks_setAp0r]
  split
  next hn => subst hn; simp [getLsbD_keepLow_clearBit n x s h64]
  next hn => simp [hn]

/-- Settles O31: a bit that was 1 already leaves every register as it was, as the bits of each show. -/
theorem activateSetsTheBitOfItsLevel : Obligations.ActivateSetsTheBitOfItsLevel := by
  unfold Obligations.ActivateSetsTheBitOfItsLevel
  intro p s hact
  obtain ⟨-, hel2, -, -⟩ := (vcpuifMayAct_iff s).1 hact
  have hstep : applyEvent (.activate0 p) s = _ := if_pos hact
  have hbits (n : Fin 4) (b : Nat) := getLsbD_ap0r_setBit (apReg s.cfg.pre p) n (apBit s.cfg.pre p) s b
  refine ⟨_, hstep, fun n b _ => hbits n b, fun hset n => ?_, ?_, ?_, ⟨_, _, settleMarks_setAp0r _ _ s⟩, rfl, rfl, rfl⟩
  · apply BitVec.eq_of_getLsbD_eq
    intro b _
    rw [hbits]
    by_cases hb : n = apReg s.cfg.pre p ∧ b = (apBit s.cfg.pre p).val
    · obtain ⟨rfl, rfl⟩ := hb; simp [hset]
    · simp [hb]
  · have hoverlap (m : Fin 4) (v : Word) : overlap (settleMarks m (setAp0r m v s)) = overlap (setAp0r m v s) :=
      overlap_congr rfl rfl rfl
    rw [settleMarks_setAp0r_unpredOverlap, hoverlap, hel2, Bool.true_and]
  · rw [settleMarks_setAp0r_unpredLegacy, hel2, bne_iff_ne.2 (keepLow_setBit_ne_zero _ _ s), Bool.true_and, Bool.and_true]

/-- Settles O32: the two cases are the two branches of `Drop0` where the interface may act. -/
theorem dropClearsOneBit : Obligations.DropClearsOneBit := by
  unfold Obligations.DropClearsOneBit
  intro n x s hact
  have hstep : applyEvent (.drop0 n x) s = _ := if_pos hact
  constructor
  · intro hi hbit
    rw [if_pos (by simp [hi, hbit])] at hstep
    exact ⟨_, hstep, fun k b h64 => getLsbD_ap0r_clearBit n k x s h64, _, _, settleMarks_setAp0r n _ s⟩
  · intro h
    rwa [if_neg (by simpa [Bool.and_eq_true, imp_iff_not_or] using h)] at hstep

/-- An event of the virtual CPU interface. -/
abbrev Event.OfInterface (e : Event) : Prop := (∃ p, e = .activate0 p) ∨ ∃ n x, e = .drop0 n x

/-- The interface does nothing where it may not act (R124). -/
theorem applyEvent_of_not_mayAct {e : Event} {s : State} (he : e.OfInterface) (h : vcpuifMayAct s = false) :
    applyEvent e s = .refused .vcpuifNotEnabled := by
  obtain ⟨p, rfl⟩ | ⟨n, x, rfl⟩ := he
  · exact if_neg (by simp [h])
  · exact if_neg (by simp [h])

/-- Settles O33: a step exists only where the interface may act, and where it may not the event is refused. -/
theorem interfaceActsAtGuestLevelsOnly : Obligations.InterfaceActsAtGuestLevelsOnly := by
  unfold Obligations.InterfaceActsAtGuestLevelsOnly
  intro s u e he
  constructor
  · intro hu
    cases hact : vcpuifMayAct s with
    | true => exact ((vcpuifMayAct_iff s).1 hact).2
    | false => rw [applyEvent_of_not_mayAct he hact] at hu; cases hu
  · intro hno
    refine applyEvent_of_not_mayAct he (Bool.eq_false_iff.2 fun hact => ?_)
    obtain ⟨-, hel2, hguest, hopen⟩ := (vcpuifMayAct_iff s).1 hact
    obtain h | h | h | h := hno
    · simp [hel2] at h
    · simp [AtGuestLevel, h] at hguest
    · simp [AtGuestLevel, h] at hguest
    · simp [hopen] at h

end Sys2Proof.Machine
end

section
/-! Taking an exception and returning (R110, R111, R114, R116, R117): what entry writes, how a raised outcome is delivered,
and what comes of an accessor in the handler. -/

namespace Sys2Proof.Machine

/-! ### Entry -/

/-- The saved registers of every level after entry: the target's receive `PSTATE`, the return address and the syndrome. -/
theorem bank_enterException (target l : ELx) (ret : Word) (esr : BitVec 32) (s : State) :
    bank l (enterException target ret esr s) =
      if l = target then { spsr := s.pstate, elr := ret, esr := esr, vbar := (bank target s).vbar } else bank l s := by
  cases target <;> cases l <;> rfl

theorem deliver_sysTrap {s : State} (hc : s.cfg.composed = true) (target : ELx) (code : BitVec 6) (ret : Word)
    (esr : BitVec 32) : deliver s (.sysTrap target code ret esr) = .next (enterException target ret esr s) := if_pos hc

theorem deliver_undefined {s : State} (hc : s.cfg.composed = true) (ret : Word) :
    deliver s (.undefined ret) = .next (enterException (undefinedTarget s) ret undefinedEsr s) := if_pos hc

theorem deliver_uncomposed {s : State} (hc : s.cfg.composed = false) (f : Fault) : deliver s f = .fault f :=
  if_neg (by simp [hc])

/-- An `NVMemFault` ends the run on every machine (R53). -/
theorem deliver_nvMemFault (s : State) (ret : Word) : deliver s (.nvMemFault ret) = .fault (.nvMemFault ret) := by
  unfold deliver; split <;> rfl

/-- Entry leaves `X`, the registers, the marks, `last_read` and the window alone. -/
theorem enterException_keeps (target : ELx) (ret : Word) (esr : BitVec 32) (s : State) :
    (enterException target ret esr s).x = s.x ∧ (enterException target ret esr s).ap0r = s.ap0r ∧
      (enterException target ret esr s).marks = s.marks ∧ (enterException target ret esr s).lastRead = s.lastRead ∧
      (enterException target ret esr s).nvmem = s.nvmem := by
  obtain ⟨b1, b2, b3, hframe⟩ := enterException_frame target ret esr s
  rw [hframe]
  exact ⟨rfl, rfl, rfl, rfl, rfl⟩

/-- Settles O40: a trap is delivered by entry at its target, and an `Undefined` by entry at its own. -/
theorem raisedOutcomeEntersTheHandler : Obligations.RaisedOutcomeEntersTheHandler := by
  unfold Obligations.RaisedOutcomeEntersTheHandler
  intro s target code ret esr hc
  obtain ⟨hx, hap0r, hmarks, hlast, hnvmem⟩ := enterException_keeps target ret esr s
  refine ⟨_, deliver_sysTrap hc target code ret esr, ?_, fun l hl => ?_, rfl, rfl, hx, hap0r, hmarks, hlast,
    fun a => by rw [hnvmem], ?_⟩
  · rw [bank_enterException, if_pos rfl]
  · rw [bank_enterException, if_neg hl]
  · rw [deliver_undefined hc, deliver_sysTrap hc, undefinedTarget]
    cases s.pstate.el with
    | el0 => simp only [Bool.and_eq_true, undefinedEsr]
    | el1 | el2 | el3 => rfl

/-- Settles O41: the step hands a raised fault to `deliver`, which passes it on. -/
theorem raisingStepIsTerminalUncomposed : Obligations.RaisingStepIsTerminalUncomposed := by
  unfold Obligations.RaisingStepIsTerminalUncomposed
  intro s p i f hp ha hd hf
  have hstep : step s = deliver p f := by rw [step_of_decode hp ha hd, hf]; rfl
  obtain ⟨ts, rfl⟩ := peTurn_frame hp
  constructor
  · exact fun hc => hstep.trans (deliver_uncomposed (s := s.setTurns ts) hc f)
  · rintro rfl
    exact hstep.trans (deliver_nvMemFault _ _)

/-! ### Return -/

/-- A return from the level of `l` to a level no higher that the controls allow (R117). -/
theorem exceptionReturn_of {s : State} {l : ELx} (hl : s.pstate.el = l.toEL)
    (hrank : (bank l s).spsr.el.rank ≤ s.pstate.el.rank)
    (hc : consistentControls s.cfg (bank l s).spsr.el s.el2Enabled = true) :
    exceptionReturn s = .next ((s.setPState (bank l s).spsr).setPc (bank l s).elr) := by
  have hcur : currentELx s = some l := by unfold currentELx; rw [hl]; cases l <;> rfl
  simp only [exceptionReturn, hcur, if_pos hrank, if_pos hc]

/-- Settles O42: the handler runs at the target, whose saved registers hold what was interrupted. -/
theorem returnUndoesEntry : Obligations.ReturnUndoesEntry := by
  unfold Obligations.ReturnUndoesEntry
  intro s target esr hrank hc
  obtain ⟨b1, b2, b3, hframe⟩ := enterException_frame target s.pc esr s
  obtain ⟨hx, hap0r, -, -, hnvmem⟩ := enterException_keeps target s.pc esr s
  have hbank := (bank_enterException target target s.pc esr s).trans (if_pos rfl)
  have hret := exceptionReturn_of (s := enterException target s.pc esr s) (l := target) rfl
    (by rw [hbank]; exact hrank) (by rw [hbank, hframe]; exact hc)
  rw [hbank] at hret
  exact ⟨_, hret, rfl, rfl, hx, hap0r, hnvmem⟩

/-! ### The handler -/

/-- At EL2 without `ICC_SRE_EL2.SRE` every accessor of an existing register is trapped to EL2 (X7 of R112). -/
theorem accessCheck_of_noSre {m : Fin 4} {s : State} (hl : s.pstate.el = .el2) (hsre : s.sreEL2 = false)
    (hm : RegExists m s) : accessCheck m s = .trap .el2 :=
  (accessCheck_eq_trap m .el2 s).2 ⟨hm, .inr (.inl ⟨rfl, hl, hsre⟩)⟩

/-- Settles O43: entry at EL2 leaves the parameters and `ICC_SRE_EL2.SRE` as they were, so X7 holds again. -/
theorem handlerWithoutSreTrapsAgain : Obligations.HandlerWithoutSreTrapsAgain := by
  unfold Obligations.HandlerWithoutSreTrapsAgain
  intro d d' m n t r s u hc hl hsre hm hn hu
  rw [exec_of_trap (accessCheck_of_noSre hl hsre hm), deliverOutcome, deliver_sysTrap hc] at hu
  cases hu
  have hagain : accessCheck n (enterException .el2 s.pc (sysTrapEsr d m t) s) = .trap .el2 :=
    accessCheck_of_noSre rfl hsre hn
  exact ⟨rfl, exec_of_trap hagain d' r⟩

/-! ### The level changes by entry only -/

/-- An accessor that completes leaves `PSTATE` (R36). -/
theorem exec_keepsPState {i : Instr} {s u : State} (h : exec i s = .next u) : u.pstate = s.pstate := by
  obtain ⟨-, -, -, rfl⟩ | ⟨-, -, rfl⟩ | ⟨-, -, -, rfl⟩ | ⟨-, -, rfl⟩ := exec_next h
  · rw [readRedirected_eq]
  · rw [readDirect_eq]
  · rw [writeRedirected_eq]
  · rw [writeDirect_eq]

/-- An `Undefined` is taken to no lower level (R110). -/
theorem rank_le_undefinedTarget (s : State) : s.pstate.el.rank ≤ (undefinedTarget s).toEL.rank := by
  unfold undefinedTarget
  cases s.pstate.el with
  | el0 => exact Nat.zero_le _
  | el1 | el2 | el3 => exact le_rfl

/-- An access is trapped to no lower level (R111). -/
theorem rank_le_of_trap {m : Fin 4} {target : ELx} {s : State} (h : accessCheck m s = .trap target) :
    s.pstate.el.rank ≤ target.toEL.rank := by
  obtain ⟨-, ⟨rfl, hl, -⟩ | ⟨rfl, hl, -⟩ | ⟨rfl, hl, -⟩⟩ := (accessCheck_eq_trap m target s).1 h <;> rw [hl] <;> decide

/-- What an accessor raises is taken to no lower level (R110, R111). -/
theorem rank_le_of_deliver {i : Instr} {s u : State} {f : Fault} (hf : exec i s = .fault f) (hu : deliver s f = .next u) :
    s.pstate.el.rank ≤ u.pstate.el.rank := by
  obtain ⟨-, ⟨ret, rfl, rfl⟩ | ⟨target, code, ret, esr, rfl, rfl⟩⟩ := deliver_next hu
  · exact rank_le_undefinedTarget s
  · obtain ⟨-, h⟩ | ⟨target', ht, h⟩ | ⟨-, h⟩ := exec_fault hf <;> cases h
    exact rank_le_of_trap ht

/-- Settles O52: a turn that completes its accessor leaves `PSTATE`, so one that changes it took an exception. -/
theorem levelChangesOnlyByTakingAnException : Obligations.LevelChangesOnlyByTakingAnException := by
  unfold Obligations.LevelChangesOnlyByTakingAnException
  intro s u h hne
  obtain ⟨-, i, hi, ho⟩ := peStep_next h
  obtain he | ⟨f, hf, hu⟩ := deliverOutcome_next ho
  · exact absurd (exec_keepsPState he) hne
  · exact ⟨(deliver_next hu).1, rank_le_of_deliver hf hu, i, f, hi, hf⟩

end Sys2Proof.Machine
end

section
/-! The syndrome of a trap as a number (R114). -/

namespace Sys2Proof.Machine

/-- Fields side by side, as a sum. -/
theorem toNat_append_eq_add {n k : Nat} (a : BitVec n) (b : BitVec k) : (a ++ b).toNat = a.toNat * 2 ^ k + b.toNat := by
  rw [BitVec.toNat_append, ← Nat.shiftLeft_add_eq_or_of_lt b.isLt, Nat.shiftLeft_eq]

/-- The ISS as a number, the direction's bit last. -/
theorem toNat_sysTrapIss (d : Dir) (m : Fin 4) {t : Nat} (ht : t < 32) :
    (sysTrapIss d m t).toNat = 0x313010 + 0x20000 * m.val + 0x20 * t + (dirBit d).toNat := by
  have hop2 : (op2Code m).toNat = m.val := Nat.mod_eq_of_lt (by omega)
  have hrt : (BitVec.ofNat 5 t).toNat = t := Nat.mod_eq_of_lt ht
  simp only [sysTrapIss, toNat_append_eq_add, hop2, hrt]
  simp only [op0Code, op1Code, crnCode, crmCode, BitVec.toNat_ofNat]
  omega

/-- The ESR adds `EC` and `IL` above the ISS. -/
theorem toNat_sysTrapEsr (d : Dir) (m : Fin 4) (t : Nat) :
    (sysTrapEsr d m t).toNat = 0x62000000 + (sysTrapIss d m t).toNat := by
  simp only [sysTrapEsr, toNat_append_eq_add, sysTrapCode, BitVec.toNat_ofNat]
  omega

/-- Settles O39, from the two numbers for either direction. -/
theorem trapSyndromeIsBasePlusFields : Obligations.TrapSyndromeIsBasePlusFields := by
  unfold Obligations.TrapSyndromeIsBasePlusFields
  intro m t ht
  have hread : (dirBit .read).toNat = 1 := rfl
  have hwrite : (dirBit .write).toNat = 0 := rfl
  refine ⟨?_, ?_, ?_, ?_⟩ <;> simp only [toNat_sysTrapEsr, toNat_sysTrapIss _ m ht, hread, hwrite] <;> omega

end Sys2Proof.Machine
end

section
/-! Saving a register and writing it back, and clearing it (R143, R144): the marks a register write sets depend on the
value, on `last_read` and on the registers it leaves. -/

namespace Sys2Proof.Machine

/-- Writing back a register's own contents leaves the state as it is: the stored upper half is zero (R22). -/
theorem setAp0r_ap0r_of_invariant {s : State} (h : Invariant s) (m : Fin 4) : setAp0r m (ap0r m s) s = s := by
  have hself : keepLow (ap0r m s) = s.ap0r[m] := (keepLow_keepLow _).trans (keepLow_of_highHalf (h.res0 m))
  rw [setAp0r, hself]
  simp [State.setAp0r]

/-- An overlap of the registers as they are was marked before (R35). -/
theorem Invariant.unpredOverlap_or {s : State} (h : Invariant s) :
    (s.marks.unpredOverlap || (s.el2Enabled && overlap s)) = s.marks.unpredOverlap := by
  rw [Bool.or_eq_left_iff_imp, Bool.and_eq_true]
  exact fun ⟨he, ho⟩ => h.overlapMarked he ho

/-- A legacy breach of an implemented register as it is was marked before (R31). -/
theorem Invariant.unpredLegacy_or {s : State} (h : Invariant s) {m : Fin 4} (hm : s.cfg.implemented m = true) :
    (s.marks.unpredLegacy || (s.el2Enabled && s.legacyVM && ap0r m s != 0)) = s.marks.unpredLegacy := by
  rw [Bool.or_eq_left_iff_imp, Bool.and_eq_true, Bool.and_eq_true, bne_iff_ne]
  exact fun ⟨⟨he, hl⟩, hne⟩ => h.legacyMarked he hl ((anyActive_iff s).2 ⟨m, hm, hne⟩)

/-- Writing back what the register reads changes nothing, where the value is admitted (R102) and no `ICH_AP1R<n>_EL2` was
written (R103). -/
theorem regWrite_directRead_of_invariant {s : State} (h : Invariant s) {m : Fin 4} (hm : RegExists m s)
    (hv : valueAdmitted m (directRead m s) s = true) (ho : s.ap1rWritten = false) :
    regWrite m (directRead m s) s = s := by
  cases h2 : s.cfg.haveEL2 with
  | false => exact regWrite_of_noEL2 m _ h2
  | true =>
    rw [directRead, if_pos h2] at hv ⊢
    have hkeep : keepLow (ap0r m s) = ap0r m s := keepLow_keepLow _
    have hhigh : highHalf (ap0r m s) = 0 := highHalf_keepLow _
    have hset := setAp0r_ap0r_of_invariant h m
    have hregs : (regWrite m (ap0r m s) s).ap0r = s.ap0r :=
      (regWrite_ap0r m _ h2).trans (congrArg State.ap0r hset)
    have hmarks : (regWrite m (ap0r m s) s).marks = s.marks := by
      rw [regWrite_marks m _ h2, hset, hkeep, hv, ho, hhigh, h.unpredOverlap_or, h.unpredLegacy_or hm.2]
      simp
    rw [regWrite_frame, hregs, hmarks]

/-- A direct `MRS` leaves what the register reads as it was. -/
theorem directRead_readDirect (m : Fin 4) (t : Nat) (s : State) : directRead m (readDirect m t s) = directRead m s := by
  rw [readDirect_eq]
  rfl

/-- After a direct `MRS` the value read is admitted (R102). -/
theorem valueAdmitted_readDirect (m : Fin 4) (t : Nat) (s : State) :
    valueAdmitted m (directRead m (readDirect m t s)) (readDirect m t s) = true := by
  rw [directRead_readDirect, valueAdmitted_iff, readDirect_eq]
  exact .inr ⟨directRead m s, by simp, rfl⟩

/-- A direct `MRS` changes nothing the access checks look at. -/
theorem DirectAccess.readDirect {n : Fin 4} {s : State} (h : DirectAccess n s) (m : Fin 4) (t : Nat) :
    DirectAccess n (readDirect m t s) := by
  rw [readDirect_eq]
  exact h

/-- A direct `MSR` of the value just read by a direct `MRS` changes the pc only. -/
theorem writeDirect_readDirect_of_invariant {s : State} (h : Invariant s) {m : Fin 4} {t : Nat} (ht : t < 31)
    (hd : DirectAccess m s) (ho : s.ap1rWritten = false) :
    writeDirect m t (readDirect m t s) = advancePc (readDirect m t s) := by
  have hu : Invariant (readDirect m t s) := h.exec (exec_read_of_direct hd t)
  have hx : readX t (readDirect m t s) = directRead m (readDirect m t s) := by
    rw [readX_readDirect m (by omega), if_neg (by omega), directRead_readDirect]
  have ho' : (readDirect m t s).ap1rWritten = false := by rw [readDirect_eq]; exact ho
  rw [writeDirect, hx, regWrite_directRead_of_invariant hu (hd.readDirect m t).1 (valueAdmitted_readDirect m t s) ho']

/-- Settles O27: the write back changes the pc only, and the read neither a register nor a mark. -/
theorem saveThenRestoreIsUnmarked : Obligations.SaveThenRestoreIsUnmarked := by
  unfold Obligations.SaveThenRestoreIsUnmarked
  intro m t s ht h hd ho
  refine ⟨_, _, exec_read_of_direct hd t, exec_write_of_direct (hd.readDirect m t) t, ?_⟩
  rw [writeDirect_readDirect_of_invariant h ht hd ho, readDirect_eq]
  exact ⟨rfl, rfl⟩

/-- Settles O28: `XZR` reads zero, whose low half is admitted and whose upper half sets no mark. -/
theorem zeroWriteClearsUnmarked : Obligations.ZeroWriteClearsUnmarked := by
  unfold Obligations.ZeroWriteClearsUnmarked
  intro m s hd h2
  have hxzr : readX 31 s = 0 := rfl
  have hv : valueAdmitted m 0 s = true := (valueAdmitted_iff m 0 s).2 (.inl rfl)
  have hhigh : highHalf 0 = 0 := rfl
  refine ⟨_, exec_write_of_direct hd 31, ?_, ?_, ?_⟩
  · rw [ap0r_writeDirect m m 31 h2, if_pos rfl, hxzr, keepLow_zero]
  · rw [writeDirect_marks, regWrite_marks m _ h2, hxzr, hv, Bool.not_true, Bool.or_false]
  · rw [writeDirect_marks, regWrite_marks m _ h2, hxzr, hhigh, bne_self_eq_false, Bool.or_false]

end Sys2Proof.Machine
end

section
/-! A Warm or Cold reset (R40, R140, R141, D22). -/

namespace Sys2Proof.Machine

/-- A register's slot after a store to the slot of any register. -/
theorem loadSlot_storeSlot_offset (e : Bool) (m n : Fin 4) (v : Word) {mem : Memory} (h : mem.wf) :
    loadSlot e (nvMemOffset n) (storeSlot e (nvMemOffset m) v mem) =
      if n = m then v else loadSlot e (nvMemOffset n) mem := by
  split
  next hn => subst hn; exact loadSlot_storeSlot e _ v h
  next hn => exact loadSlot_storeSlot_of_disjoint e _ _ v mem (nvMemOffset_disjoint hn)

/-- Each slot of the window a launch fills holds the launch's value (R52). -/
theorem loadSlot_slotMemory (e : Bool) (v : Vector Word 4) (m : Fin 4) :
    loadSlot e (nvMemOffset m) (slotMemory e v) = v[m] := by
  have hempty : Memory.wf [] := ⟨List.Pairwise.nil, by simp⟩
  have h0 := storeSlot_wf e (nvMemOffset 0) v[0] hempty
  have h1 := storeSlot_wf e (nvMemOffset 1) v[1] h0
  have h2 := storeSlot_wf e (nvMemOffset 2) v[2] h1
  rw [slotMemory, loadSlot_storeSlot_offset e 3 m _ h2, loadSlot_storeSlot_offset e 2 m _ h1,
    loadSlot_storeSlot_offset e 1 m _ h0, loadSlot_storeSlot_offset e 0 m _ hempty]
  fin_cases m <;> rfl

/-- A reset whose launch is consistent is a launch (R140). -/
theorem resetEvent_of_consistent {l : Launch} {s : State}
    (h : consistentControls s.cfg l.pstate.el l.el2Enabled = true) : resetEvent l s = .next (launchState l s) :=
  if_pos h

/-- A Cold reset does what a Warm reset does (D22). -/
theorem applyEvent_reset {e : Event} {l : Launch} (he : e = .warmReset l ∨ e = .coldReset l) (s : State) :
    applyEvent e s = resetEvent l s := by
  obtain rfl | rfl := he <;> rfl

theorem step_of_eventTurn {s : State} {e : Event} {rest : List Turn} (h : s.turns = .env e :: rest) :
    step s = applyEvent e (s.setTurns rest) := by
  rw [step, h]

/-- Settles O37: the step is the launch, which clears the registers and the ghost state and takes the rest as given. -/
theorem resetClearsRegistersAndGhostState : Obligations.ResetClearsRegistersAndGhostState := by
  unfold Obligations.ResetClearsRegistersAndGhostState
  intro l s rest e he hturn hc
  have hstep : step s = .next (launchState l (s.setTurns rest)) := by
    rw [step_of_eventTurn hturn, applyEvent_reset he]
    exact resetEvent_of_consistent hc
  have hnone : ∀ m : Fin 4, (#v[none, none, none, none] : Vector (Option Word) 4)[m] = none := by decide
  have hzero : ∀ m : Fin 4, (#v[0, 0, 0, 0] : Vector Word 4)[m] = 0 := by decide
  refine ⟨_, hstep, fun m => ?_, rfl, hnone, rfl, rfl, rfl, rfl, fun m => loadSlot_slotMemory _ _ m, rfl, rfl⟩
  exact (congrArg keepLow (hzero m)).trans keepLow_zero

end Sys2Proof.Machine
end
